-- ==== Sys2Proof/Word.lean ====
section
/-! DEFINITION. The word types of the B32M core (00_scope.md R6, R8; 10_state.md R20). Every value is unsigned. -/

namespace Sys2Proof

/-- An 8-bit unsigned value, 0..255 (R8): a payload byte, a character code, an opcode. -/
abbrev Byte := BitVec 8

/-- A word of PLI, a 5-bit value 0..31 (R8). -/
abbrev Word := BitVec 5

/-- A 30-bit polymod residue: `ACC`, `CKSUM`, a generator coefficient (R22, R23, R32). -/
abbrev Residue := BitVec 30

/-- A 32-bit host register value or command word (R50, R70). -/
abbrev Reg := BitVec 32

/-- The 12-bit regrouper accumulator (R29, R101). -/
abbrev RgAcc := BitVec 12

end Sys2Proof
end

