-- ==== Sys2Proof/Config.lean ====
section
/-! DEFINITION. The parameters of 00_scope.md R5 that are plain numbers. The spec fixes each of them; the one OPEN
parameter, `B32_BASE`, is an argument of the model and stands in State (log 2). The read-only tables stand in
Machine/Tables.lean. The spec leaves no value of the core open, so there is no free value. -/

namespace Sys2Proof.Config

/-- `ACC_INIT`, the initial value of the polymod accumulator. -/
abbrev accInit : Residue := 1

/-- `CK_LEN`, how many words a checksum has. -/
abbrev ckLen : Nat := 6

/-- `SEP_CHAR`, the code of the separator character. -/
abbrev sepChar : Nat := 0x31

/-- The largest code point of a character before the separator. -/
abbrev maxHrpCode : Nat := 127

/-- The size of the register window in bytes (R50). -/
abbrev windowBytes : Nat := 256

/-- The width of an admitted host access, in bits (R52). -/
abbrev accessBits : Nat := 32

/-- The alignment of an admitted host access, in bytes (R52). -/
abbrev accessAlign : Nat := 4

end Sys2Proof.Config
end

