-- ==== Sys2Proof/Syntax.lean ====
section
/-! DEFINITION. The commands (30_encoding.md R73), the registers of the window by name (20_memory.md R51) and the
assembler's statements (30_encoding.md R78, R79). -/

namespace Sys2Proof

/-- The direction of the regrouper, `RG_DIR` (10_state.md R29, 41_regrouper.md R100). -/
inductive Dir where
  /-- `RG_DIR = 0`, fromBits 8, toBits 5. -/
  | to5
  /-- `RG_DIR = 1`, fromBits 5, toBits 8. -/
  | to8
  deriving DecidableEq, Repr

/-- One constructor per row of R73. `imm` is the field `IMM`, any 8-bit value: its range is checked when the command
executes (R72, R80). -/
inductive Instr where
  | nop
  | softReset
  | clrErr
  | rgInit (dir : Dir) (pad : Bool)
  | rgPush (imm : Byte)
  | rgFlush
  | pmInit
  | pmFeed (imm : Byte)
  | pmHrpHi (imm : Byte)
  | pmHrpLo (imm : Byte)
  | ckFinal
  | ckWord (imm : Byte)
  | ckVerify
  | csEnc (imm : Byte)
  | csDec (imm : Byte)
  deriving DecidableEq, Repr

/-- The rows of R73 by name, in the table's order. -/
inductive Opcode where
  | nop | softReset | clrErr
  | rgInit | rgPush | rgFlush
  | pmInit | pmFeed | pmHrpHi | pmHrpLo | ckFinal | ckWord | ckVerify
  | csEnc | csDec
  deriving DecidableEq, Repr

/-- The named registers of the window (R51). -/
inductive RegName where
  | cmd | status | result | acc | cksum | rgstate
  | gen0 | gen1 | gen2 | gen3 | gen4 | const
  deriving DecidableEq, Repr

/-- What may stand after a mnemonic (R78): a number (decimal, hexadecimal or the code of a character literal) or a
direction. -/
inductive AsmOperand where
  | num (n : Nat)
  | dir (d : Dir)
  deriving DecidableEq, Repr

/-- The mnemonics an assembler line may begin with: a command (R78) or a pseudo-command (R79). -/
inductive Mnemonic where
  | core (o : Opcode)
  | pmSep
  | rgOpenEnc
  | rgOpenDec
  deriving DecidableEq, Repr

/-- One line of a host program (R78): a command, `RD <register>` or `WR <register>, <value>`. -/
inductive AsmLine where
  | cmd (m : Mnemonic) (ops : List AsmOperand)
  | rd (r : RegName)
  | wr (r : RegName) (value : Nat)
  deriving DecidableEq, Repr

/-- What an assembler line stands for: one command, or one host access. -/
inductive AsmItem where
  | command (i : Instr)
  | read (r : RegName)
  | write (r : RegName) (value : Reg)
  deriving DecidableEq, Repr

end Sys2Proof
end

