-- ==== Sys2Proof/Machine/State.lean ====
section
/-! DEFINITION. The state of the machine: the registers of 10_state.md R20, and beside them what the model needs to
be one deterministic machine (the base address, the coming accesses, the values read, the record of R236). -/

namespace Sys2Proof.Machine

/-- A fault of the host program (60_exceptions.md R236): a class P error. The core itself goes on (R225), so `step`
never STOPS with one of these: it notes the first in `State.hostFault` (log 4). `Safety.guardedStep`, the reading of
93_implementation_defined.md I1 to I3 in which the run ends there, stops with it. Stopping is safe. -/
inductive Fault where
  /-- Raised by a word that matches no row (R74); safe. -/
  | illegalCmd
  /-- Raised by `RG_PUSH`, `PM_FEED`, `CK_WORD`, `CS_ENC` (R80); safe. -/
  | operandRange
  /-- Raised by `PM_HRP_HI`, `PM_HRP_LO` (R80); safe. -/
  | hrpChar
  deriving DecidableEq, Repr

/-- Why there is no step. -/
inductive Refusal where
  /-- Raised by an arm of `exec` that has no meaning yet; safe. No arm has it. -/
  | notModelled (mnemonic : String)
  /-- Raised by a host access that is not 32 bits wide (20_memory.md R52); safe. -/
  | accessWidth
  /-- Raised by a 32-bit host access outside the window (R52); safe. -/
  | outsideWindow
  /-- Raised by a 32-bit host access inside the window at an offset that is no multiple of 4 (R52); safe. -/
  | misaligned
  deriving DecidableEq, Repr

/-- What the world does to the core next: hardware reset by the platform (70_reset_and_hazards.md R250), or one host
access at a byte address, `bits` wide (20_memory.md R52 to R54). Only a 32-bit write is admitted, so the value is
held as 32 bits. -/
inductive HostEvent where
  | reset
  | read (addr bits : Nat)
  | write (addr bits : Nat) (value : Reg)
  deriving DecidableEq, Repr

/-- The machine. The first eleven fields are the architectural state of 10_state.md R20. The read-only tables of R20
never change (70_reset_and_hazards.md R251) and stand in Machine/Tables.lean (log 9). -/
@[ext]
structure State where
  /-- `ACC` (R22). -/
  acc : Residue
  /-- `CKSUM` (R23). -/
  cksum : Residue
  /-- `RESULT` (R24). -/
  result : Reg
  /-- `ERR` (R25). -/
  err : BitVec 4
  /-- `MATCH` (R26). -/
  matchFlag : Bool
  /-- `ERR_OP` (R27). -/
  errOp : Byte
  /-- `OVF` (R28). -/
  ovf : Bool
  /-- `RG_ACC` (R29). -/
  rgAcc : RgAcc
  /-- `RG_CNT` (R29). -/
  rgCnt : BitVec 4
  /-- `RG_DIR` (R29). -/
  rgDir : Dir
  /-- `RG_PAD` (R29). -/
  rgPad : Bool
  /-- `B32_BASE`, the OPEN parameter (20_memory.md R50): nothing writes it (log 2). -/
  b32Base : Nat
  /-- The accesses and resets still to come, in order (20_memory.md R57, log 1). -/
  pending : List HostEvent
  /-- The values that reads returned to the host, newest first (log 6). -/
  responses : List Reg
  /-- The first class P error since the run began: "a fault that no later step clears" (60_exceptions.md R236,
  log 4). -/
  hostFault : Option Fault
  deriving DecidableEq, Repr

namespace State

/-- The machine after reset: the values of 10_state.md R36, nothing to come, nothing read, no fault. `B32_BASE` is
fixed by the platform and 0 stands for it here (log 2). -/
def reset : State where
  acc := 1
  cksum := 0
  result := 0
  err := 0
  matchFlag := false
  errOp := 0
  ovf := false
  rgAcc := 0
  rgCnt := 0
  rgDir := .to5
  rgPad := true
  b32Base := 0
  pending := []
  responses := []
  hostFault := none

/-! ### Updates: every write of a field goes through one of these -/

def setAcc (s : State) (v : Residue) : State := { s with acc := v }

def setCksum (s : State) (v : Residue) : State := { s with cksum := v }

def setResult (s : State) (v : Reg) : State := { s with result := v }

def setMatch (s : State) (b : Bool) : State := { s with matchFlag := b }

/-- `ERR <- code; ERR_OP <- op` (60_exceptions.md R223). -/
def setErr (s : State) (code : BitVec 4) (op : Byte) : State := { s with err := code, errOp := op }

def setOvf (s : State) (b : Bool) : State := { s with ovf := b }

/-- The stream's pending bits: `RG_ACC` and `RG_CNT`. -/
def setStream (s : State) (acc : RgAcc) (cnt : BitVec 4) : State := { s with rgAcc := acc, rgCnt := cnt }

/-- The regrouper's mode: `RG_DIR` and `RG_PAD`. -/
def setMode (s : State) (dir : Dir) (pad : Bool) : State := { s with rgDir := dir, rgPad := pad }

def setHostFault (s : State) (f : Option Fault) : State := { s with hostFault := f }

def setPending (s : State) (evs : List HostEvent) : State := { s with pending := evs }

/-- A read returns `v` to the host. -/
def respond (s : State) (v : Reg) : State := { s with responses := v :: s.responses }

end State

end Sys2Proof.Machine
end

