-- ==== Sys2Proof/Machine/Operands.lean ====
section
/-! DEFINITION. The operand checks of 30_encoding.md R80, made when the command executes. Each gives the operand in
its own type, or nothing where the check fails. `IMM` is used as an unsigned value (R72). -/

namespace Sys2Proof.Machine

/-- A word operand must be 0..31. -/
def wordOperand (imm : Byte) : Option Word := if imm.toNat ≤ 31 then some (imm.setWidth 5) else none

/-- The high part `c >> 5` of a character before the separator, which must be 0..127 (42_checksum.md R136). -/
def hrpHigh (imm : Byte) : Option Word :=
  if imm.toNat ≤ Config.maxHrpCode then some ((imm >>> 5).setWidth 5) else none

/-- The low part `c & 31` of a character before the separator, which must be 0..127 (42_checksum.md R137). -/
def hrpLow (imm : Byte) : Option Word :=
  if imm.toNat ≤ Config.maxHrpCode then some ((imm &&& 31).setWidth 5) else none

/-- A checksum index must be 0..5. -/
def checksumIndex (imm : Byte) : Option Nat := if imm.toNat < Config.ckLen then some imm.toNat else none

/-- `fromBits` (41_regrouper.md R100). -/
def fromBits : Dir → Nat
  | .to5 => 8
  | .to8 => 5

/-- `toBits` (41_regrouper.md R100). -/
def toBits : Dir → Nat
  | .to5 => 5
  | .to8 => 8

/-- A regrouper input must fit in `fromBits` bits (41_regrouper.md R102, R106). -/
def streamOperand (d : Dir) (imm : Byte) : Option Byte := if imm.toNat < 2 ^ fromBits d then some imm else none

end Sys2Proof.Machine
end

