-- ==== Sys2Proof/Decode.lean ====
section
/-! DEFINITION. The command word (30_encoding.md R70, R71), the table of R73, the decoder of R74 and the encoder.
Every command is one 32-bit word (R77) and no byte order is visible through the window (20_memory.md R56), so the
decoder reads a 32-bit value, total on all of them. -/

namespace Sys2Proof

/-! ### The fields of a command word (R70, R71) -/

/-- `OP = w[31:24]`. -/
def opField (w : Reg) : Byte := w.extractLsb' 24 8

/-- `RSVD = w[23:12]`. -/
def rsvdField (w : Reg) : BitVec 12 := w.extractLsb' 12 12

/-- `F = w[11:8]`. -/
def fField (w : Reg) : BitVec 4 := w.extractLsb' 8 4

/-- `IMM = w[7:0]`. -/
def immField (w : Reg) : Byte := w.extractLsb' 0 8

/-- `DIR = w[8]`. -/
def dirField (w : Reg) : Dir := if w.getLsbD 8 then .to8 else .to5

/-- `PAD = w[9]`. -/
def padField (w : Reg) : Bool := w.getLsbD 9

/-! ### The opcode table (R73) -/

/-- Every row of R73, in the table's order. -/
def Opcode.all : List Opcode :=
  [.nop, .softReset, .clrErr, .rgInit, .rgPush, .rgFlush, .pmInit, .pmFeed, .pmHrpHi, .pmHrpLo,
   .ckFinal, .ckWord, .ckVerify, .csEnc, .csDec]

/-- The column OP of R73. -/
def Opcode.byte : Opcode → Byte
  | .nop => 0x00
  | .softReset => 0x01
  | .clrErr => 0x02
  | .rgInit => 0x10
  | .rgPush => 0x11
  | .rgFlush => 0x12
  | .pmInit => 0x20
  | .pmFeed => 0x21
  | .pmHrpHi => 0x22
  | .pmHrpLo => 0x23
  | .ckFinal => 0x24
  | .ckWord => 0x25
  | .ckVerify => 0x26
  | .csEnc => 0x30
  | .csDec => 0x31

/-- The column match of R73. -/
def Opcode.matchBits : Opcode → Reg
  | .nop => 0x00000000
  | .softReset => 0x01000000
  | .clrErr => 0x02000000
  | .rgInit => 0x10000000
  | .rgPush => 0x11000000
  | .rgFlush => 0x12000000
  | .pmInit => 0x20000000
  | .pmFeed => 0x21000000
  | .pmHrpHi => 0x22000000
  | .pmHrpLo => 0x23000000
  | .ckFinal => 0x24000000
  | .ckWord => 0x25000000
  | .ckVerify => 0x26000000
  | .csEnc => 0x30000000
  | .csDec => 0x31000000

/-- The column mask of R73. -/
def Opcode.mask : Opcode → Reg
  | .nop => 0xFFFFFFFF
  | .softReset => 0xFFFFFFFF
  | .clrErr => 0xFFFFFFFF
  | .rgInit => 0xFFFFFCFF
  | .rgPush => 0xFFFFFF00
  | .rgFlush => 0xFFFFFFFF
  | .pmInit => 0xFFFFFFFF
  | .pmFeed => 0xFFFFFF00
  | .pmHrpHi => 0xFFFFFF00
  | .pmHrpLo => 0xFFFFFF00
  | .ckFinal => 0xFFFFFFFF
  | .ckWord => 0xFFFFFF00
  | .ckVerify => 0xFFFFFFFF
  | .csEnc => 0xFFFFFF00
  | .csDec => 0xFFFFFF00

/-- "A word is that command when `(w & mask) == match`" (R73). -/
def Opcode.selects (o : Opcode) (w : Reg) : Bool := w &&& o.mask == o.matchBits

/-- The command a row stands for, with the operands of R73 and R71 taken from the word. -/
def Opcode.build (o : Opcode) (w : Reg) : Instr :=
  match o with
  | .nop => .nop
  | .softReset => .softReset
  | .clrErr => .clrErr
  | .rgInit => .rgInit (dirField w) (padField w)
  | .rgPush => .rgPush (immField w)
  | .rgFlush => .rgFlush
  | .pmInit => .pmInit
  | .pmFeed => .pmFeed (immField w)
  | .pmHrpHi => .pmHrpHi (immField w)
  | .pmHrpLo => .pmHrpLo (immField w)
  | .ckFinal => .ckFinal
  | .ckWord => .ckWord (immField w)
  | .ckVerify => .ckVerify
  | .csEnc => .csEnc (immField w)
  | .csDec => .csDec (immField w)

/-! ### Decoding (R74 to R76) -/

/-- Why a word matches no row. The core raises `ILLEGAL_CMD` for each; the names are the model's (log 12). -/
inductive Reject where
  /-- `OP` is in no row (R76). -/
  | reservedOpcode
  /-- `OP` names a command and `RSVD` is not zero (R75). -/
  | reservedBits
  /-- `OP` names a command, `RSVD` is zero, and a bit of `F` or `IMM` that the row fixes is not zero (R75). -/
  | fixedBits
  deriving DecidableEq, Repr

/-- The name of the rejection of a word that matches no row (log 12). -/
def rejectReason (w : Reg) : Reject :=
  if !(Opcode.all.any fun o => o.byte == opField w) then .reservedOpcode
  else if rsvdField w ≠ 0 then .reservedBits
  else .fixedBits

/-- Decoding (R74): the row with `(w & row.mask) == row.match`, or a rejection. -/
def decode (w : Reg) : Except Reject Instr :=
  match Opcode.all.find? (·.selects w) with
  | some o => .ok (o.build w)
  | none => .error (rejectReason w)

/-! ### Encoding -/

/-- The row of a command. -/
def Instr.opcode : Instr → Opcode
  | .nop => .nop
  | .softReset => .softReset
  | .clrErr => .clrErr
  | .rgInit _ _ => .rgInit
  | .rgPush _ => .rgPush
  | .rgFlush => .rgFlush
  | .pmInit => .pmInit
  | .pmFeed _ => .pmFeed
  | .pmHrpHi _ => .pmHrpHi
  | .pmHrpLo _ => .pmHrpLo
  | .ckFinal => .ckFinal
  | .ckWord _ => .ckWord
  | .ckVerify => .ckVerify
  | .csEnc _ => .csEnc
  | .csDec _ => .csDec

/-- `F[0]` of a direction (R70). -/
def Dir.bit : Dir → Bool
  | .to5 => false
  | .to8 => true

/-- The field `F` (R70): `F[0] = DIR` and `F[1] = PAD` in `RG_INIT`, zero in every other command. -/
def Instr.fBits : Instr → BitVec 4
  | .rgInit d p => 0#2 ++ BitVec.ofBool p ++ BitVec.ofBool d.bit
  | .nop => 0
  | .softReset => 0
  | .clrErr => 0
  | .rgPush _ => 0
  | .rgFlush => 0
  | .pmInit => 0
  | .pmFeed _ => 0
  | .pmHrpHi _ => 0
  | .pmHrpLo _ => 0
  | .ckFinal => 0
  | .ckWord _ => 0
  | .ckVerify => 0
  | .csEnc _ => 0
  | .csDec _ => 0

/-- The field `IMM` (R70), zero in a command without such an operand. -/
def Instr.immBits : Instr → Byte
  | .rgPush imm => imm
  | .pmFeed imm => imm
  | .pmHrpHi imm => imm
  | .pmHrpLo imm => imm
  | .ckWord imm => imm
  | .csEnc imm => imm
  | .csDec imm => imm
  | .nop => 0
  | .softReset => 0
  | .clrErr => 0
  | .rgInit _ _ => 0
  | .rgFlush => 0
  | .pmInit => 0
  | .ckFinal => 0
  | .ckVerify => 0

/-- The command word `OP, RSVD, F, IMM` of R70, with `RSVD` zero. -/
def encode (i : Instr) : Reg := i.opcode.byte ++ 0#12 ++ i.fBits ++ i.immBits

/-- What this decoder reads from the word whose bits are `w`. A command word has 32 bits (R77), and the bits above
`nbits` are zero. -/
def decodeTableWord (nbits w : Nat) : Option Instr :=
  (decode (BitVec.ofNat 32 (w % 2 ^ nbits))).toOption

end Sys2Proof
end

