-- ==== Sys2Proof/Machine/Flags.lean ====
section
/-! DEFINITION. The error codes (60_exceptions.md R220), and the words the status fields and the regrouper fields are
read as (10_state.md R34, R35). -/

namespace Sys2Proof.Machine

/-- The errors a command can raise, in the order of R220. -/
inductive ErrCode where
  | illegalCmd
  | operandRange
  | hrpChar
  | invalidChar
  | checksumMismatch
  | nonzeroPadding
  deriving DecidableEq, Repr

/-- The column code of R220. -/
def ErrCode.code : ErrCode → BitVec 4
  | .illegalCmd => 1
  | .operandRange => 2
  | .hrpChar => 3
  | .invalidChar => 4
  | .checksumMismatch => 5
  | .nonzeroPadding => 6

/-- The column class of R220: a class P error is a fault of the host program (R236), a class D error is a value. -/
def ErrCode.hostFault : ErrCode → Option Fault
  | .illegalCmd => some .illegalCmd
  | .operandRange => some .operandRange
  | .hrpChar => some .hrpChar
  | .invalidChar => none
  | .checksumMismatch => none
  | .nonzeroPadding => none

/-- `STATUS` (10_state.md R34): `zext_32({OVF, ERR_OP, 0b000, MATCH, ERR})`. -/
def statusWord (s : State) : Reg :=
  0#15 ++ BitVec.ofBool s.ovf ++ s.errOp ++ 0#3 ++ BitVec.ofBool s.matchFlag ++ s.err

/-- `RGSTATE` (10_state.md R35). -/
def rgstateWord (s : State) : Reg :=
  0#6 ++ BitVec.ofBool s.rgPad ++ BitVec.ofBool s.rgDir.bit ++ 0#4 ++ s.rgCnt ++ 0#4 ++ s.rgAcc

end Sys2Proof.Machine
end

