-- ==== Sys2Proof/Machine/Tables.lean ====
section
/-! DEFINITION. The read-only tables of 10_state.md R30 to R33. They are constants: no command and no access changes
one (20_memory.md R62, 70_reset_and_hazards.md R251). -/

namespace Sys2Proof.Machine

/-- `CHARSET_ROM` (R30), in index order: the ASCII codes the spec gives for `qpzry9x8gf2tvdw0s3jn54khce6mua7l`
(log 10). -/
def charsetTable : List Byte :=
  [0x71, 0x70, 0x7a, 0x72, 0x79, 0x39, 0x78, 0x38] ++
  [0x67, 0x66, 0x32, 0x74, 0x76, 0x64, 0x77, 0x30] ++
  [0x73, 0x33, 0x6a, 0x6e, 0x35, 0x34, 0x6b, 0x68] ++
  [0x63, 0x65, 0x36, 0x6d, 0x75, 0x61, 0x37, 0x6c]

/-- `CHARSET_ROM[v]`. The list has an entry for each of the 32 words. -/
def charsetRom (v : Word) : Byte := charsetTable.getD v.toNat 0

/-- The entry of `INV_ROM` that marks a code outside the charset (R31). -/
def invalidMark : Byte := 0xFF

/-- The index of `c` in a table whose first entry has index `i`, or the mark. -/
def indexIn (c : Byte) : List Byte → Byte → Byte
  | [], _ => invalidMark
  | x :: xs, i => if x = c then i else indexIn c xs (i + 1)

/-- `INV_ROM[c]` (R31): `i` when `CHARSET_ROM[i] == c`, `0xFF` for every other code. -/
def invRom (c : Byte) : Byte := indexIn c charsetTable 0

/-- `GEN[0..4]` (R32). -/
def genTable : List Residue := [0x3b6a57b2, 0x26508e6d, 0x1ea119fa, 0x3d4233dd, 0x2a1462b3]

/-- `GEN[i]` for `i` in 0..4. -/
def gen (i : Nat) : Residue := genTable.getD i 0

/-- `CHECKSUM_CONST` (R33), the m-variant. -/
def checksumConst : Residue := 0x2bc830a3

end Sys2Proof.Machine
end

