-- ==== Sys2Proof/Machine/Ops.lean ====
section
/-! DEFINITION. The shared operations: recording an error and clearing the record (60_exceptions.md R223, R228), the
reset of the core (70_reset_and_hazards.md R250), and reading a register (20_memory.md R51, R53). The core has no trap
entry and no trap return (R227, R228): the error record is all an error leaves. -/

namespace Sys2Proof.Machine

/-- R236: a class P error is noted as a fault that no later step clears; the first is kept (log 4, log 5). -/
def noteHostFault (e : ErrCode) (s : State) : State :=
  match s.hostFault, e.hostFault with
  | none, some f => s.setHostFault (some f)
  | none, none => s
  | some _, _ => s

/-- `raise Err(code)` (R223), `op` being `w[31:24]` of the command word being executed (log 19): the first error is recorded
with its opcode, a later one only sets `OVF`. -/
def raiseErr (e : ErrCode) (op : Byte) (s : State) : State :=
  let s' := if s.err = 0 then s.setErr e.code op else s.setOvf true
  noteHostFault e s'

/-- Clearing the error record: `ERR <- 0; ERR_OP <- 0; OVF <- 0` (44_control.md R182). -/
def clearErr (s : State) : State := (s.setErr 0 0).setOvf false

/-- Reset, by the platform or by `SOFT_RESET` (R250, 44_control.md R181): every register of R20 is loaded with its
value in 10_state.md R36. -/
def resetCore (s : State) : State :=
  let s := ((s.setAcc Config.accInit).setCksum 0).setResult 0
  let s := (clearErr s).setMatch false
  (s.setStream 0 0).setMode .to5 true

/-- The offset of a register in the window (20_memory.md R51). -/
def regOffset : RegName → Nat
  | .cmd => 0x000
  | .status => 0x004
  | .result => 0x008
  | .acc => 0x00C
  | .cksum => 0x010
  | .rgstate => 0x014
  | .gen0 => 0x020
  | .gen1 => 0x024
  | .gen2 => 0x028
  | .gen3 => 0x02C
  | .gen4 => 0x030
  | .const => 0x034

/-- The registers of the window in the order of R51. -/
def allRegs : List RegName :=
  [.cmd, .status, .result, .acc, .cksum, .rgstate, .gen0, .gen1, .gen2, .gen3, .gen4, .const]

/-- The column content of R51. -/
def readReg (r : RegName) (s : State) : Reg :=
  match r with
  | .cmd => 0
  | .status => statusWord s
  | .result => s.result
  | .acc => s.acc.setWidth 32
  | .cksum => s.cksum.setWidth 32
  | .rgstate => rgstateWord s
  | .gen0 => (gen 0).setWidth 32
  | .gen1 => (gen 1).setWidth 32
  | .gen2 => (gen 2).setWidth 32
  | .gen3 => (gen 3).setWidth 32
  | .gen4 => (gen 4).setWidth 32
  | .const => checksumConst.setWidth 32

/-- `RegRead(off)` at an admitted offset (R53): reserved offsets read 0. -/
def regRead (off : Nat) (s : State) : Reg :=
  match allRegs.find? (fun r => regOffset r == off) with
  | some r => readReg r s
  | none => 0

end Sys2Proof.Machine
end

