-- ==== Sys2Proof/Machine/Charset.lean ====
section
/-! DEFINITION. The charset encoder and decoder (43_charset.md). -/

namespace Sys2Proof.Machine

/-- `CS_ENC` (R161). -/
def execCsEnc (imm : Byte) (s : State) : Host.Outcome State Fault Refusal :=
  match wordOperand imm with
  | none => .next (raiseErr .operandRange Opcode.csEnc.byte s)
  | some v => .next (s.setResult ((charsetRom v).setWidth 32))

/-- `CS_DEC` (R162): the result is written, also when the code is not in the charset. -/
def execCsDec (imm : Byte) (s : State) : Host.Outcome State Fault Refusal :=
  let r := invRom imm
  let written := s.setResult (r.setWidth 32)
  if r = invalidMark then .next (raiseErr .invalidChar Opcode.csDec.byte written) else .next written

end Sys2Proof.Machine
end

