-- ==== Sys2Proof/Machine/Checksum.lean ====
section
/-! DEFINITION. The polymod engine and the checksum commands (42_checksum.md). -/

namespace Sys2Proof.Machine

/-- The loop of R131 from coefficient `i` on: `if top[i] = 1: a <- a ^ GEN[i]`. -/
def xorSelected (top : Word) : List Residue → Nat → Residue → Residue
  | [], _, a => a
  | g :: gs, i, a => xorSelected top gs (i + 1) (if top.getLsbD i then a ^^^ g else a)

/-- The step function `PolyStep(acc, v)` (R131). -/
def polyStep (acc : Residue) (v : Word) : Residue :=
  xorSelected (acc.extractLsb' 25 5) genTable 0 (((acc &&& 0x1FFFFFF) <<< 5) ^^^ v.setWidth 30)

/-- `n` feeds of 0 (R138). -/
def feedZeros : Nat → Residue → Residue
  | 0, a => a
  | n + 1, a => feedZeros n (polyStep a 0)

/-- `ACC <- PolyStep(ACC, v)`, one feed. -/
def feed (v : Word) (s : State) : State := s.setAcc (polyStep s.acc v)

/-- Word `i` of a residue (R139, 20_memory.md R59): `(residue >> (5 * (5 - i))) & 31`. -/
def checksumWord (residue : Residue) (i : Nat) : Word := (residue >>> (5 * (5 - i))).setWidth 5

/-- `PM_INIT` (R134). -/
def execPmInit (s : State) : Host.Outcome State Fault Refusal := .next (s.setAcc Config.accInit)

/-- `PM_FEED` (R135). -/
def execPmFeed (imm : Byte) (s : State) : Host.Outcome State Fault Refusal :=
  match wordOperand imm with
  | none => .next (raiseErr .operandRange Opcode.pmFeed.byte s)
  | some v => .next (feed v s)

/-- `PM_HRP_HI` (R136). -/
def execPmHrpHi (imm : Byte) (s : State) : Host.Outcome State Fault Refusal :=
  match hrpHigh imm with
  | none => .next (raiseErr .hrpChar Opcode.pmHrpHi.byte s)
  | some v => .next (feed v s)

/-- `PM_HRP_LO` (R137). -/
def execPmHrpLo (imm : Byte) (s : State) : Host.Outcome State Fault Refusal :=
  match hrpLow imm with
  | none => .next (raiseErr .hrpChar Opcode.pmHrpLo.byte s)
  | some v => .next (feed v s)

/-- `CK_FINAL` (R138): six feeds of 0 into `ACC`, the constant into `CKSUM`, and `RESULT`. -/
def execCkFinal (s : State) : Host.Outcome State Fault Refusal :=
  let a := feedZeros Config.ckLen s.acc
  let c := a ^^^ checksumConst
  .next (((s.setAcc a).setCksum c).setResult (c.setWidth 32))

/-- `CK_WORD` (R139). -/
def execCkWord (imm : Byte) (s : State) : Host.Outcome State Fault Refusal :=
  match checksumIndex imm with
  | none => .next (raiseErr .operandRange Opcode.ckWord.byte s)
  | some i => .next (s.setResult ((checksumWord s.cksum i).setWidth 32))

/-- `CK_VERIFY` (R140). -/
def execCkVerify (s : State) : Host.Outcome State Fault Refusal :=
  if s.acc = checksumConst then .next ((s.setMatch true).setResult 1)
  else .next (raiseErr .checksumMismatch Opcode.ckVerify.byte ((s.setMatch false).setResult 0))

end Sys2Proof.Machine
end

