-- ==== Sys2Proof/Machine/Control.lean ====
section
/-! DEFINITION. The control commands (44_control.md) and the word that is no command (30_encoding.md R74). -/

namespace Sys2Proof.Machine

/-- `NOP` (R180): no effect. -/
def execNop (s : State) : Host.Outcome State Fault Refusal := .next s

/-- `SOFT_RESET` (R181): every register returns to its reset value. -/
def execSoftReset (s : State) : Host.Outcome State Fault Refusal := .next (resetCore s)

/-- `CLR_ERR` (R182): the error record is cleared. -/
def execClrErr (s : State) : Host.Outcome State Fault Refusal := .next (clearErr s)

/-- A word `w` that matches no row (R74 to R76): `ILLEGAL_CMD` is raised with the word's bits [31:24] as written
(10_state.md R27), and there is no other effect. -/
def execIllegal (w : Reg) (s : State) : Host.Outcome State Fault Refusal := .next (raiseErr .illegalCmd (opField w) s)

end Sys2Proof.Machine
end

