-- ==== Sys2Proof/Machine/Regrouper.lean ====
section
/-! DEFINITION. The bit regrouper: `RG_INIT`, `RG_PUSH`, `RG_FLUSH` (41_regrouper.md). -/

namespace Sys2Proof.Machine

/-- `mask(n)` in the accumulator's width (00_scope.md R6). -/
def lowMask (n : Nat) : RgAcc := BitVec.ofNat 12 (2 ^ n - 1)

/-- `(v & maxv)` as an output value (R103, R108): at most 8 bits. -/
def outValue (d : Dir) (v : RgAcc) : Byte := (v &&& lowMask (toBits d)).setWidth 8

/-- The loop of R103: while `cnt >= toBits`, take `toBits` from `cnt` and emit the value above the rest. It gives the
emitted values in order and the count left. Each turn takes at least 5 bits, so `fuel = cnt` is enough.
States that R37 rules out follow the pseudocode too (log 11). -/
def emitLoop (d : Dir) (acc : RgAcc) : (fuel cnt : Nat) → List Byte × Nat
  | 0, cnt => ([], cnt)
  | fuel + 1, cnt =>
    if cnt < toBits d then ([], cnt)
    else
      let rest := emitLoop d acc fuel (cnt - toBits d)
      (outValue d (acc >>> (cnt - toBits d)) :: rest.1, rest.2)

/-- Output packing (R104): `zext_32({N[1:0], OUT1[7:0], OUT0[7:0]})`, an absent output being 0. -/
def packOutputs (outs : List Byte) : Reg :=
  0#14 ++ BitVec.ofNat 2 outs.length ++ outs.getD 1 0 ++ outs.getD 0 0

/-- `((RG_ACC << fromBits) | v) & mask(12)` (R103). -/
def shiftIn (d : Dir) (acc : RgAcc) (v : Byte) : RgAcc := (acc <<< fromBits d) ||| v.setWidth 12

/-- The push step (R103) of an input that fits, with its outputs packed in `RESULT` (R106). -/
def pushValue (v : Byte) (s : State) : State :=
  let acc := shiftIn s.rgDir s.rgAcc v
  let cnt := s.rgCnt.toNat + fromBits s.rgDir
  let out := emitLoop s.rgDir acc cnt cnt
  (s.setStream acc (BitVec.ofNat 4 out.2)).setResult (packOutputs out.1)

/-- The padded final value (R108), emitted when bits are left. -/
def padOutputs (d : Dir) (acc : RgAcc) (cnt : Nat) : List Byte :=
  if 0 < cnt then [outValue d (acc <<< (toBits d - cnt))] else []

/-- The leftover is an error (R109): it holds a whole input value (a), or a discarded bit is 1 (b). -/
def leftoverBad (d : Dir) (acc : RgAcc) (cnt : Nat) : Bool :=
  decide (fromBits d ≤ cnt) || (acc &&& lowMask cnt != 0)

/-- `RG_INIT` (R105): the mode is written and the stream is emptied, without any check. -/
def execRgInit (dir : Dir) (pad : Bool) (s : State) : Host.Outcome State Fault Refusal :=
  .next ((s.setMode dir pad).setStream 0 0)

/-- `RG_PUSH` (R106). -/
def execRgPush (imm : Byte) (s : State) : Host.Outcome State Fault Refusal :=
  match streamOperand s.rgDir imm with
  | none => .next (raiseErr .operandRange Opcode.rgPush.byte s)
  | some v => .next (pushValue v s)

/-- `RG_FLUSH` (R107): the stream is closed whatever the outcome, then the padding policy is applied to what was
left. -/
def execRgFlush (s : State) : Host.Outcome State Fault Refusal :=
  let closed := s.setStream 0 0
  if s.rgPad then
    .next (closed.setResult (packOutputs (padOutputs s.rgDir s.rgAcc s.rgCnt.toNat)))
  else if leftoverBad s.rgDir s.rgAcc s.rgCnt.toNat then
    .next (raiseErr .nonzeroPadding Opcode.rgFlush.byte (closed.setResult 0))
  else
    .next (closed.setResult 0)

end Sys2Proof.Machine
end

