-- ==== Sys2Proof/Machine/Dispatch.lean ====
section
/-! DEFINITION. The meaning of each command of 30_encoding.md R73, one arm per row. -/

namespace Sys2Proof.Machine

def exec (i : Instr) (s : State) : Host.Outcome State Fault Refusal :=
  match i with
  | .nop => Sys2Proof.Machine.execNop s
  | .softReset => Sys2Proof.Machine.execSoftReset s
  | .clrErr => Sys2Proof.Machine.execClrErr s
  | .rgInit dir pad => Sys2Proof.Machine.execRgInit dir pad s
  | .rgPush imm => Sys2Proof.Machine.execRgPush imm s
  | .rgFlush => Sys2Proof.Machine.execRgFlush s
  | .pmInit => Sys2Proof.Machine.execPmInit s
  | .pmFeed imm => Sys2Proof.Machine.execPmFeed imm s
  | .pmHrpHi imm => Sys2Proof.Machine.execPmHrpHi imm s
  | .pmHrpLo imm => Sys2Proof.Machine.execPmHrpLo imm s
  | .ckFinal => Sys2Proof.Machine.execCkFinal s
  | .ckWord imm => Sys2Proof.Machine.execCkWord imm s
  | .ckVerify => Sys2Proof.Machine.execCkVerify s
  | .csEnc imm => Sys2Proof.Machine.execCsEnc imm s
  | .csDec imm => Sys2Proof.Machine.execCsDec imm s

end Sys2Proof.Machine
end

