-- ==== Sys2Proof/Machine/Window.lean ====
section
/-! DEFINITION. The register window (20_memory.md): which host accesses are admitted, what a read returns, what a
write does, and serving the next event. -/

namespace Sys2Proof.Machine

/-- `Execute(w)` (30_encoding.md R74): one command, or `ILLEGAL_CMD`. -/
def execute (w : Reg) (s : State) : Host.Outcome State Fault Refusal :=
  match decode w with
  | .ok i => exec i s
  | .error _ => execIllegal w s

/-- The offset of an admitted access (R52): 32 bits wide, inside the window, at a multiple of 4. Anything else is
refused, under the first name that holds (log 8). Addresses are natural numbers and the window does not wrap (log 18). -/
def admittedOffset (base addr bits : Nat) : Except Refusal Nat :=
  if bits ≠ Config.accessBits then .error .accessWidth
  else if addr < base ∨ base + Config.windowBytes ≤ addr then .error .outsideWindow
  else if (addr - base) % Config.accessAlign ≠ 0 then .error .misaligned
  else .ok (addr - base)

/-- `RegWrite(off, v)` at an admitted offset (R54): a write to `CMD` executes one command, any other is ignored. -/
def regWrite (off : Nat) (v : Reg) (s : State) : Host.Outcome State Fault Refusal :=
  if off = regOffset .cmd then execute v s else .next s

/-- One event. A hardware reset loads the registers (70_reset_and_hazards.md R250, log 13); a read returns the register's
value and changes no register (R53); an access that is not admitted has no step (R52). -/
def serve (ev : HostEvent) (s : State) : Host.Outcome State Fault Refusal :=
  match ev with
  | .reset => .next (resetCore s)
  | .read addr bits =>
    match admittedOffset s.b32Base addr bits with
    | .ok off => .next (s.respond (regRead off s))
    | .error r => .refused r
  | .write addr bits v =>
    match admittedOffset s.b32Base addr bits with
    | .ok off => regWrite off v s
    | .error r => .refused r

/-- The next event in order (R57). With none to come the core "holds its state and does nothing"
(60_exceptions.md R235, log 7). -/
def serveNext (s : State) : Host.Outcome State Fault Refusal :=
  match s.pending with
  | [] => .next s
  | ev :: evs => serve ev (s.setPending evs)

/-- The host's write of the command word `w` to `CMD`. -/
def cmdWrite (base : Nat) (w : Reg) : HostEvent := .write (base + regOffset .cmd) Config.accessBits w

/-- The host's read of a named register. -/
def regAccess (base : Nat) (r : RegName) : HostEvent := .read (base + regOffset r) Config.accessBits

/-- `s` with a `CMD` write put before all that is to come. -/
def putCmdWrite (w : Reg) (s : State) : State := s.setPending (cmdWrite s.b32Base w :: s.pending)

end Sys2Proof.Machine
end

