-- ==== Sys2Proof/Machine/Step.lean ====
section
/-! DEFINITION. One step of the machine: the next event is served (20_memory.md R57). -/

namespace Sys2Proof.Machine

/-- A command is selected by the host's write to `CMD`, not fetched (10_state.md R21): a step serves the first event
of `State.pending`. -/
def step (s : State) : Host.Outcome State Fault Refusal := serveNext s

/-- `s` in which the very next step is the host's write of the word `w` to `CMD` (log 3). Commands are 32 bits (R77). -/
def State.withFetchWord (s : State) (nbits w : Nat) : State := putCmdWrite (BitVec.ofNat 32 (w % 2 ^ nbits)) s

end Sys2Proof.Machine
end

