-- ==== Sys2Proof/WellFormed.lean ====
section
/-! DEFINITION. What the assembler refuses (30_encoding.md R78): an `<imm>` above 255, an operand given to a command
without one, and a line with missing or wrong operands. A term of `Instr` needs no check: `IMM` is an 8-bit field and
every 8-bit value is "legal to write" (R78), its range being checked when the command executes (R80). -/

namespace Sys2Proof

/-- What operands a command's row has (R73, R78). -/
inductive OperandShape where
  | none
  | imm
  | dirPad
  deriving DecidableEq, Repr

/-- The operand column of R73. -/
def Opcode.shape : Opcode → OperandShape
  | .nop => .none
  | .softReset => .none
  | .clrErr => .none
  | .rgInit => .dirPad
  | .rgPush => .imm
  | .rgFlush => .none
  | .pmInit => .none
  | .pmFeed => .imm
  | .pmHrpHi => .imm
  | .pmHrpLo => .imm
  | .ckFinal => .none
  | .ckWord => .imm
  | .ckVerify => .none
  | .csEnc => .imm
  | .csDec => .imm

/-- Every pseudo-command of R79 is written without operands. -/
def Mnemonic.shape : Mnemonic → OperandShape
  | .core o => o.shape
  | .pmSep => .none
  | .rgOpenEnc => .none
  | .rgOpenDec => .none

/-- The operands fit the shape: an `<imm>` is at most 255, a `<pad>` is 0 or 1, a `<dir>` is a direction (R78). -/
def OperandShape.admits : OperandShape → List AsmOperand → Bool
  | .none, [] => true
  | .imm, [.num n] => decide (n ≤ 255)
  | .dirPad, [.dir _, .num p] => decide (p ≤ 1)
  | _, _ => false

/-- The lines an assembler accepts (R78). The value of a `WR` is one 32-bit value (R56, log 16). -/
def AsmLine.wellFormed : AsmLine → Bool
  | .cmd m ops => m.shape.admits ops
  | .rd _ => true
  | .wr _ v => decide (v < 2 ^ 32)

end Sys2Proof
end

