-- ==== Sys2Proof/Machine/Assembler.lean ====
section
/-! DEFINITION. The assembler of 30_encoding.md R78 and R79: text to a line, a line to a command or an access. -/

namespace Sys2Proof.Machine

/-! ### A line to what it stands for -/

/-- A command with the operands of its row (R73); nothing where the operands do not fit (R78). -/
def assembleCore (o : Opcode) (ops : List AsmOperand) : Option Instr :=
  if o.shape.admits ops then
    let imm : Byte := match ops with
      | [.num n] => BitVec.ofNat 8 n
      | _ => 0
    match o with
    | .nop => some .nop
    | .softReset => some .softReset
    | .clrErr => some .clrErr
    | .rgInit =>
      match ops with
      | [.dir d, .num p] => some (.rgInit d (p == 1))
      | _ => none
    | .rgPush => some (.rgPush imm)
    | .rgFlush => some .rgFlush
    | .pmInit => some .pmInit
    | .pmFeed => some (.pmFeed imm)
    | .pmHrpHi => some (.pmHrpHi imm)
    | .pmHrpLo => some (.pmHrpLo imm)
    | .ckFinal => some .ckFinal
    | .ckWord => some (.ckWord imm)
    | .ckVerify => some .ckVerify
    | .csEnc => some (.csEnc imm)
    | .csDec => some (.csDec imm)
  else none

/-- A mnemonic with its operands; the pseudo-commands expand as R79 says. -/
def assembleCmd (m : Mnemonic) (ops : List AsmOperand) : Option Instr :=
  match m with
  | .core o => assembleCore o ops
  | .pmSep => if m.shape.admits ops then some (.pmFeed 0) else none
  | .rgOpenEnc => if m.shape.admits ops then some (.rgInit .to5 true) else none
  | .rgOpenDec => if m.shape.admits ops then some (.rgInit .to8 false) else none

/-- A line of a host program (R78). -/
def assemble (l : AsmLine) : Option AsmItem :=
  match l with
  | .cmd m ops => (assembleCmd m ops).map .command
  | .rd r => some (.read r)
  | .wr r v => if v < 2 ^ 32 then some (.write r (BitVec.ofNat 32 v)) else none

/-- The access an item stands for: `WR CMD, <value>` is what every mnemonic stands for (R78). -/
def itemEvent (base : Nat) : AsmItem → HostEvent
  | .command i => cmdWrite base (encode i)
  | .read r => regAccess base r
  | .write r v => .write (base + regOffset r) Config.accessBits v

/-! ### Text to a line (R78; white space, letter case, and the written forms of `<pad>` and `<value>` are log 16) -/

/-- The names of R73 and R79. -/
def mnemonicNames : List (String × Mnemonic) :=
  [("NOP", .core .nop), ("SOFT_RESET", .core .softReset), ("CLR_ERR", .core .clrErr),
   ("RG_INIT", .core .rgInit), ("RG_PUSH", .core .rgPush), ("RG_FLUSH", .core .rgFlush)] ++
  [("PM_INIT", .core .pmInit), ("PM_FEED", .core .pmFeed), ("PM_HRP_HI", .core .pmHrpHi),
   ("PM_HRP_LO", .core .pmHrpLo), ("CK_FINAL", .core .ckFinal), ("CK_WORD", .core .ckWord),
   ("CK_VERIFY", .core .ckVerify)] ++
  [("CS_ENC", .core .csEnc), ("CS_DEC", .core .csDec),
   ("PM_SEP", .pmSep), ("RG_OPEN_ENC", .rgOpenEnc), ("RG_OPEN_DEC", .rgOpenDec)]

/-- The register names of 20_memory.md R51. -/
def registerNames : List (String × RegName) :=
  [("CMD", .cmd), ("STATUS", .status), ("RESULT", .result), ("ACC", .acc), ("CKSUM", .cksum),
   ("RGSTATE", .rgstate)] ++
  [("GEN0", .gen0), ("GEN1", .gen1), ("GEN2", .gen2), ("GEN3", .gen3), ("GEN4", .gen4), ("CONST", .const)]

/-- The entry under a name. -/
def lookupName {α : Type} (names : List (String × α)) (tok : List Char) : Option α :=
  (names.find? fun e => e.1.toList == tok).map (·.2)

/-- A token, if any characters have been gathered (`cur` holds them last first). -/
def flushToken (cur : List Char) (rest : List (List Char)) : List (List Char) :=
  if cur.isEmpty then rest else cur.reverse :: rest

/-- The tokens of a line: spaces separate, a comma is a token, a character literal is one token. -/
def tokensFrom : List Char → List Char → List (List Char)
  | [], cur => flushToken cur []
  | '\'' :: c :: '\'' :: rest, cur => flushToken cur (['\'', c, '\''] :: tokensFrom rest [])
  | c :: rest, cur =>
    if c = ' ' then flushToken cur (tokensFrom rest [])
    else if c = ',' then flushToken cur ([','] :: tokensFrom rest [])
    else tokensFrom rest (c :: cur)

/-- The value of a digit in a base up to 16. -/
def digitValue (base : Nat) (c : Char) : Option Nat :=
  let v := if '0' ≤ c ∧ c ≤ '9' then some (c.toNat - 48)
    else if 'a' ≤ c ∧ c ≤ 'f' then some (c.toNat - 87)
    else if 'A' ≤ c ∧ c ≤ 'F' then some (c.toNat - 55)
    else none
  match v with
  | some d => if d < base then some d else none
  | none => none

/-- The value of digits after `acc`. -/
def digitsFrom (base : Nat) : List Char → Nat → Option Nat
  | [], acc => some acc
  | c :: cs, acc =>
    match digitValue base c with
    | some d => digitsFrom base cs (acc * base + d)
    | none => none

/-- A number: decimal, `0x` hexadecimal or a character literal. R78 gives these forms for `<imm>`; leading zeros, and the
same forms for the `<value>` of `WR` and for `<pad>`, are the model's choice (log 16). -/
def parseNumber : List Char → Option Nat
  | [] => none
  | ['\'', c, '\''] => some c.toNat
  | '0' :: 'x' :: c :: cs => digitsFrom 16 (c :: cs) 0
  | c :: cs => digitsFrom 10 (c :: cs) 0

/-- An operand: a direction `8to5` or `5to8`, or a number (R78). A `<pad>` is any form of a number whose value is 0 or 1:
DESIGN CHOICE, R78 gives it no written form (log 16). -/
def parseOperand (tok : List Char) : Option AsmOperand :=
  if tok = "8to5".toList then some (.dir .to5)
  else if tok = "5to8".toList then some (.dir .to8)
  else (parseNumber tok).map .num

/-- Operands separated by commas. -/
def parseOperands : List (List Char) → Option (List AsmOperand)
  | [] => some []
  | [t] => (parseOperand t).map ([·])
  | t :: [','] :: t' :: ts =>
    match parseOperand t, parseOperands (t' :: ts) with
    | some a, some as => some (a :: as)
    | _, _ => none
  | _ => none

/-- A line of text (R78). The `<value>` of `WR` is any form of a number: DESIGN CHOICE, R78 gives it no written form
(log 16). -/
def parseLine (text : List Char) : Option AsmLine :=
  match tokensFrom text [] with
  | [] => none
  | t :: ts =>
    if t = "RD".toList then
      match ts with
      | [r] => (lookupName registerNames r).map .rd
      | _ => none
    else if t = "WR".toList then
      match ts with
      | [r, [','], v] =>
        match lookupName registerNames r, parseNumber v with
        | some r, some v => some (.wr r v)
        | _, _ => none
      | _ => none
    else
      match lookupName mnemonicNames t, parseOperands ts with
      | some m, some ops => some (.cmd m ops)
      | _, _ => none

end Sys2Proof.Machine
end

