-- ==== Sys2Proof/Machine/HostProcedures.lean ====
section
/-! DEFINITION. The host procedures ENCODE and DECODE (45_host_procedures.md), and how the host agent runs one: each
command and each read is one access of the register window, served as a step serves it (log 15). Strings are lists of
code points. -/

namespace Sys2Proof.Machine

/-- `EncodingError` (R190). -/
inductive EncodingError where
  | emptyHrp
  | hrpCharacter
  deriving DecidableEq, Repr

/-- `DecodeError` (R190). -/
inductive DecodeError where
  | missingSeparator
  | dataTooShort
  | invalidCharacter
  | checksumMismatch
  | nonzeroPadding
  deriving DecidableEq, Repr

/-- A host procedure, as the pseudocode writes one: it returns, or issues a command and goes on, or reads a register and
goes on with the value read. -/
inductive HostProc (α : Type) where
  | done (a : α)
  | issue (i : Instr) (rest : HostProc α)
  | rd (r : RegName) (rest : Reg → HostProc α)

/-- Go on with what the first part returns. -/
def andThen {α β : Type} : HostProc α → (α → HostProc β) → HostProc β
  | .done a, k => k a
  | .issue i rest, k => .issue i (andThen rest k)
  | .rd r rest, k => .rd r fun v => andThen (rest v) k

/-- Issue commands in order. -/
def issueAll : List Instr → HostProc Unit
  | [] => .done ()
  | i :: is => .issue i (issueAll is)

/-- Issue commands in order, with `rd RESULT` after each (R191). -/
def issueReading : List Instr → HostProc (List Reg)
  | [] => .done []
  | i :: is => .issue i (.rd .result fun r => andThen (issueReading is) fun rs => .done (r :: rs))

/-! ### Running a procedure -/

/-- What running a procedure ends with: the state and what was returned, or the refusal of an access. -/
abbrev HostRun (α : Type) := Host.Outcome (State × α) Fault Refusal

/-- Run a procedure: `issue X` is `RegWrite(0x000, word of X)`, and `rd R` goes on with the value the read returned. -/
def runHost {α : Type} : HostProc α → State → HostRun α
  | .done a, s => .next (s, a)
  | .issue i rest, s =>
    match serve (cmdWrite s.b32Base (encode i)) s with
    | .next s' => runHost rest s'
    | .fault f => .fault f
    | .refused x => .refused x
  | .rd r rest, s =>
    match serve (regAccess s.b32Base r) s with
    | .next s' => runHost (rest (s'.responses.headD 0)) s'
    | .fault f => .fault f
    | .refused x => .refused x

/-- The accesses a procedure makes and what it returns, when its reads return exactly the values given, in order. -/
def follow {α : Type} (base : Nat) : HostProc α → List Reg → Option (List HostEvent × α)
  | .done a, [] => some ([], a)
  | .done _, _ :: _ => none
  | .issue i rest, vs => (follow base rest vs).map fun e => (cmdWrite base (encode i) :: e.1, e.2)
  | .rd _ _, [] => none
  | .rd r rest, v :: vs => (follow base (rest v) vs).map fun e => (regAccess base r :: e.1, e.2)

/-! ### The checksum sequences -/

/-- The feeds of the expansion of the characters before the separator (42_checksum.md R133): all high parts, `PM_SEP`,
all low parts. -/
def hrpFeeds (p : List Nat) : List Instr :=
  p.map (fun c => .pmHrpHi (BitVec.ofNat 8 c)) ++ [.pmFeed 0] ++ p.map (fun c => .pmHrpLo (BitVec.ofNat 8 c))

/-- `PM_INIT`, the expansion, and a `PM_FEED` of each word in order (42_checksum.md R141, R142). -/
def sequenceFeeds (p : List Nat) (words : List Byte) : List Instr :=
  .pmInit :: hrpFeeds p ++ words.map .pmFeed

/-- createChecksum as a command sequence (42_checksum.md R141). -/
def checksumProc (p : List Nat) (words : List Byte) : HostProc (List Byte) :=
  andThen (issueAll (sequenceFeeds p words ++ [.ckFinal])) fun _ =>
  andThen (issueReading ((List.range Config.ckLen).map fun i => .ckWord (BitVec.ofNat 8 i))) fun rs =>
  .done (rs.map (·.setWidth 8))

/-- verifyChecksum as a command sequence (42_checksum.md R142): the boolean is `STATUS.MATCH`. -/
def verifyProc (p : List Nat) (combined : List Byte) : HostProc Bool :=
  andThen (issueAll (sequenceFeeds p combined ++ [.ckVerify])) fun _ =>
  .rd .status fun st => .done (st.getLsbD 4)

/-- A run of createChecksum. -/
def hostCreateChecksum (p : List Nat) (words : List Byte) (s : State) : HostRun (List Byte) :=
  runHost (checksumProc p words) s

/-- A run of verifyChecksum. -/
def hostVerifyChecksum (p : List Nat) (combined : List Byte) (s : State) : HostRun Bool :=
  runHost (verifyProc p combined) s

/-! ### ENCODE and DECODE -/

/-- `first r[17:16] of [r[7:0], r[15:8]]` (R192). -/
def bothOutputs (r : Reg) : List Byte := [r.extractLsb' 0 8, r.extractLsb' 8 8].take (r.extractLsb' 16 2).toNat

/-- `first r[17:16] of [r[7:0]]` (R200). -/
def oneOutput (r : Reg) : List Byte := [r.extractLsb' 0 8].take (r.extractLsb' 16 2).toNat

/-- A character of `p` has a code point above 127 (R192, R202). -/
def hrpTooHigh (p : List Nat) : Bool := p.any fun c => decide (Config.maxHrpCode < c)

/-- `ENCODE(p, b)` (R192). -/
def encodeProc (p : List Nat) (b : List Byte) : HostProc (Except EncodingError (List Nat)) :=
  if p.isEmpty then .done (.error .emptyHrp)
  else if hrpTooHigh p then .done (.error .hrpCharacter)
  else
    andThen (issueAll [.clrErr, .rgInit .to5 true]) fun _ =>
    andThen (issueReading (b.map .rgPush ++ [.rgFlush])) fun rs =>
    let words := rs.flatMap bothOutputs
    andThen (checksumProc p words) fun ck =>
    andThen (issueReading ((words ++ ck).map .csEnc)) fun cs =>
    .done (.ok (p ++ [Config.sepChar] ++ cs.map (·.toNat)))

/-- A run of `ENCODE(p, b)`. -/
def hostEncode (p : List Nat) (b : List Byte) (s : State) : HostRun (Except EncodingError (List Nat)) :=
  runHost (encodeProc p b) s

/-- DECODE step 1 (R195): split at the last separator. -/
def splitAtLast : List Nat → Option (List Nat × List Nat)
  | [] => none
  | c :: cs =>
    match splitAtLast cs with
    | some (p, d) => some (c :: p, d)
    | none => if c = Config.sepChar then some ([], cs) else none

/-- DECODE step 3 (R197, R203): each data character through `CS_DEC`, up to the first that is invalid. -/
def decodeChars : List Nat → HostProc (Except DecodeError (List Byte))
  | [] => .done (.ok [])
  | c :: cs =>
    if 255 < c then .done (.error .invalidCharacter)
    else
      .issue (.csDec (BitVec.ofNat 8 c)) <| .rd .result fun r =>
        if r = 0xFF then .done (.error .invalidCharacter)
        else andThen (decodeChars cs) fun ws => .done (ws.map (r.setWidth 8 :: ·))

/-- DECODE step 6 (R200): the payload words regrouped 5 -> 8 without padding. -/
def decodePayload (payload : List Byte) : HostProc (Except DecodeError (List Byte)) :=
  .issue (.rgInit .to8 false) <|
  andThen (issueReading (payload.map .rgPush)) fun rs =>
  .issue .rgFlush <| .rd .status fun st =>
    if st.extractLsb' 0 4 = ErrCode.nonzeroPadding.code then .done (.error .nonzeroPadding)
    else .done (.ok (rs.flatMap oneOutput))

/-- `DECODE(s)` (R200), after the split at the last separator. -/
def decodeParts (p d : List Nat) : HostProc (Except DecodeError (List Nat × List Byte)) :=
  if d.length < Config.ckLen then .done (.error .dataTooShort)
  else
    .issue .clrErr <|
    andThen (decodeChars d) fun combined =>
    match combined with
    | .error e => .done (.error e)
    | .ok combined =>
      if hrpTooHigh p then .done (.error .invalidCharacter)
      else
        andThen (verifyProc p combined) fun verified =>
        if !verified then .done (.error .checksumMismatch)
        else
          andThen (decodePayload (combined.take (combined.length - Config.ckLen))) fun bytes =>
          .done (bytes.map fun b => (p, b))

/-- `DECODE(s)` (R195 to R204). -/
def decodeProc (str : List Nat) : HostProc (Except DecodeError (List Nat × List Byte)) :=
  match splitAtLast str with
  | none => .done (.error .missingSeparator)
  | some (p, d) => decodeParts p d

/-- A run of `DECODE(s)`. -/
def hostDecode (str : List Nat) (s : State) : HostRun (Except DecodeError (List Nat × List Byte)) :=
  runHost (decodeProc str) s

end Sys2Proof.Machine
end

