-- ==== Sys2Proof/Machine/Reference.lean ====
section
/-! DEFINITION. PLI's functions over whole sequences, which the command sequences are to compute: polymod, the
expansion of the characters before the separator, createChecksum, verifyChecksum (42_checksum.md R132, R133, R138 to
R142) and regroup (41_regrouper.md R58, R103, R108, R109), encode and decode, the accesses the host procedures are to
make (45_host_procedures.md), and the run of a regrouper stream (41_regrouper.md R110). -/

namespace Sys2Proof.Machine

/-- `polymod(values)` (R132). -/
def polymod (values : List Word) : Residue := values.foldl polyStep Config.accInit

/-- `expandPrefix(p)` (R133), for code points at most 127. -/
def expandHrp (p : List Nat) : List Word :=
  p.map (fun c => BitVec.ofNat 5 (c / 32)) ++ [0] ++ p.map (fun c => BitVec.ofNat 5 (c % 32))

/-- `createChecksum(p, words)`, steps 2 and 3 as R138 and R139 quote them. -/
def createChecksum (p : List Nat) (words : List Word) : List Word :=
  let residue := polymod (expandHrp p ++ words ++ List.replicate Config.ckLen 0) ^^^ checksumConst
  (List.range Config.ckLen).map (checksumWord residue)

/-- `verifyChecksum(p, combined)` as R140 quotes it. -/
def verifyChecksum (p : List Nat) (combined : List Word) : Bool :=
  polymod (expandHrp p ++ combined) == checksumConst

/-! ### regroup over unbounded numbers (PLI §4.1 as R101, R103, R108 and R109 quote it) -/

/-- While `cnt >= toBits` (`tw`): emit the `toBits` bits of `acc` above the rest. -/
def regroupEmit (tw acc : Nat) : (fuel cnt : Nat) → List Nat × Nat
  | 0, cnt => ([], cnt)
  | fuel + 1, cnt =>
    if cnt < tw then ([], cnt)
    else
      let rest := regroupEmit tw acc fuel (cnt - tw)
      (acc / 2 ^ (cnt - tw) % 2 ^ tw :: rest.1, rest.2)

/-- The main loop with `fromBits` (`fw`) and `toBits` (`tw`): the emitted values, the accumulator and the bit count left. -/
def regroupLoop (fw tw : Nat) : List Nat → (acc cnt : Nat) → List Nat × Nat × Nat
  | [], acc, cnt => ([], acc, cnt)
  | v :: vs, acc, cnt =>
    let acc' := acc * 2 ^ fw + v
    let out := regroupEmit tw acc' (cnt + fw) (cnt + fw)
    let rest := regroupLoop fw tw vs acc' out.2
    (out.1 ++ rest.1, rest.2)

/-- `regroup(data, fromBits, toBits, pad)`: the values emitted, and whether PLI reports its error (R109). -/
def regroup (fw tw : Nat) (pad : Bool) (data : List Nat) : List Nat × Bool :=
  let out := regroupLoop fw tw data 0 0
  let acc := out.2.1
  let cnt := out.2.2
  if pad then
    (out.1 ++ (if 0 < cnt then [acc * 2 ^ (tw - cnt) % 2 ^ tw] else []), false)
  else (out.1, decide (fw ≤ cnt) || decide (acc % 2 ^ cnt ≠ 0))

/-- The bits of a value of `n` bits, most significant first (20_memory.md R58). -/
def bitsMsb (n v : Nat) : List Bool := (List.range n).map fun k => v.testBit (n - 1 - k)

/-- The bitstream of a sequence of values of `n` bits (R58). -/
def bitstream (n : Nat) (vs : List Nat) : List Bool := vs.flatMap (bitsMsb n)

/-! ### encode and decode -/

/-- The word a character stands for (43_charset.md R160): its position in the charset. -/
def charIndex (c : Nat) : Option Word := ((charsetTable.map BitVec.toNat).idxOf? c).map (BitVec.ofNat 5)

/-- PLI's encode, as R192 and R193 quote its steps. -/
def pliEncode (p : List Nat) (b : List Byte) : Except EncodingError (List Nat) :=
  if p.isEmpty then .error .emptyHrp
  else if hrpTooHigh p then .error .hrpCharacter
  else
    let words := (regroup 8 5 true (b.map BitVec.toNat)).1.map (BitVec.ofNat 5)
    .ok (p ++ [Config.sepChar] ++ (words ++ createChecksum p words).map fun w => (charsetRom w).toNat)

/-- PLI's decode, as R195 to R204 state it: missing separator, data too short, invalid character, checksum mismatch,
non-zero padding, in this order (R201). -/
def pliDecode (str : List Nat) : Except DecodeError (List Nat × List Byte) :=
  match splitAtLast str with
  | none => .error .missingSeparator
  | some (p, d) =>
    if d.length < Config.ckLen then .error .dataTooShort
    else
      match d.mapM charIndex with
      | none => .error .invalidCharacter
      | some combined =>
        if hrpTooHigh p then .error .invalidCharacter
        else if !verifyChecksum p combined then .error .checksumMismatch
        else
          let payload := combined.take (combined.length - Config.ckLen)
          let out := regroup 5 8 false (payload.map BitVec.toNat)
          if out.2 then .error .nonzeroPadding else .ok (p, out.1.map (BitVec.ofNat 8))

/-! ### The accesses of a procedure, from its arguments alone (R191, R192, R195 to R203) -/

/-- `issue` of each command, in order. -/
def issues (base : Nat) (cmds : List Instr) : List HostEvent := cmds.map fun i => cmdWrite base (encode i)

/-- `issue` of each command, in order, with `rd RESULT` after each. -/
def issuesReading (base : Nat) (cmds : List Instr) : List HostEvent :=
  cmds.flatMap fun i => [cmdWrite base (encode i), regAccess base .result]

/-- A word as the operand of a command. -/
def wordImm (w : Word) : Byte := w.setWidth 8

/-- The accesses of ENCODE (R192): none where the host returns an error (R193). -/
def encodeAccesses (base : Nat) (p : List Nat) (b : List Byte) : List HostEvent :=
  if p.isEmpty || hrpTooHigh p then []
  else
    let words := (regroup 8 5 true (b.map BitVec.toNat)).1.map (BitVec.ofNat 5)
    issues base [.clrErr, .rgInit .to5 true] ++
    issuesReading base (b.map .rgPush ++ [.rgFlush]) ++
    issues base ([.pmInit] ++ p.map (fun c => .pmHrpHi (BitVec.ofNat 8 c)) ++ [.pmFeed 0] ++
      p.map (fun c => .pmHrpLo (BitVec.ofNat 8 c)) ++ words.map (fun w => .pmFeed (wordImm w)) ++ [.ckFinal]) ++
    issuesReading base [.ckWord 0, .ckWord 1, .ckWord 2, .ckWord 3, .ckWord 4, .ckWord 5] ++
    issuesReading base ((words ++ createChecksum p words).map fun w => .csEnc (wordImm w))

/-- The accesses of DECODE step 3 (R197, R203): up to and with the first character that `CS_DEC` finds invalid, and up
to and without the first that cannot be written as `IMM`. -/
def charAccesses (base : Nat) : List Nat → List HostEvent
  | [] => []
  | c :: cs =>
    if 255 < c then []
    else
      issuesReading base [.csDec (BitVec.ofNat 8 c)] ++
      (if (charIndex c).isSome then charAccesses base cs else [])

/-- The accesses of DECODE (R200), up to the first failure (R191). -/
def decodeAccesses (base : Nat) (str : List Nat) : List HostEvent :=
  match splitAtLast str with
  | none => []
  | some (p, d) =>
    if d.length < Config.ckLen then []
    else
      issues base [.clrErr] ++ charAccesses base d ++
      match d.mapM charIndex with
      | none => []
      | some combined =>
        if hrpTooHigh p then []
        else
          issues base ([.pmInit] ++ p.map (fun c => .pmHrpHi (BitVec.ofNat 8 c)) ++ [.pmFeed 0] ++
            p.map (fun c => .pmHrpLo (BitVec.ofNat 8 c)) ++ combined.map (fun w => .pmFeed (wordImm w)) ++
            [.ckVerify]) ++ [regAccess base .status] ++
          if !verifyChecksum p combined then []
          else
            issues base [.rgInit .to8 false] ++
            issuesReading base ((combined.take (combined.length - Config.ckLen)).map fun w => .rgPush (wordImm w)) ++
            issues base [.rgFlush] ++ [regAccess base .status]

/-! ### Runs of commands -/

/-- Run commands one after another. -/
def runCmds : List Instr → State → Host.Outcome State Fault Refusal
  | [], s => .next s
  | i :: is, s =>
    match exec i s with
    | .next t => runCmds is t
    | .fault f => .fault f
    | .refused r => .refused r

/-- Run commands one after another, collecting the outputs of `RESULT` after each (41_regrouper.md R104, R110). -/
def runStream : List Instr → State → Host.Outcome (State × List Byte) Fault Refusal
  | [], s => .next (s, [])
  | i :: is, s =>
    match exec i s with
    | .next s' =>
      match runStream is s' with
      | .next (t, outs) => .next (t, bothOutputs s'.result ++ outs)
      | .fault f => .fault f
      | .refused r => .refused r
    | .fault f => .fault f
    | .refused r => .refused r

/-- The commands that follow `RG_INIT` in a stream over `data`. -/
def streamCmds (data : List Byte) : List Instr := data.map .rgPush ++ [.rgFlush]

end Sys2Proof.Machine
end

