-- ==== Sys2Proof/Safety.lean ====
section
/-! DEFINITION. What counts as a safe run, the invariants of the machine, and the words claims use for what a command
writes and keeps. -/

namespace Sys2Proof.Safety

open Sys2Proof.Machine

/-- "No class P error raised" (60_exceptions.md R236), the premise of a claim about a host program. -/
def hostClean (s : State) : Bool := s.hostFault.isNone

/-- The reading of 93_implementation_defined.md I1 to I3: the run is a failure of the host program at its first class P
error and no claim holds past it. Everything else is as `step` says. -/
def guardedStep (s : State) : Host.Outcome State Fault Refusal :=
  match step s with
  | .next t =>
    match t.hostFault with
    | some f => .fault f
    | none => .next t
  | .fault f => .fault f
  | .refused r => .refused r

/-- "Between any two commands `RG_CNT < toBits`" (10_state.md R37). -/
def StreamInv (s : State) : Prop := s.rgCnt.toNat < toBits s.rgDir

/-- The commands that can set `ERR` to a code, by the value of `ERR_OP` (60_exceptions.md R220, 10_state.md R27). Codes
7..15 are never raised. -/
def errOrigin (code : BitVec 4) (op : Byte) : Bool :=
  match code.toNat with
  | 0 => op == 0
  | 1 => true
  | 2 => [0x11#8, 0x21#8, 0x25#8, 0x30#8].contains op
  | 3 => [0x22#8, 0x23#8].contains op
  | 4 => op == 0x31
  | 5 => op == 0x26
  | 6 => op == 0x12
  | _ => false

/-- The error record is one that R223 and R220 can leave: an error is lost only while one is recorded, `ERR_OP` names a
command that raises `ERR`, and a class P code is recorded only if a class P error was noted (R236). -/
def RecordInv (s : State) : Prop :=
  errOrigin s.err s.errOp = true ∧
  (s.err = 0 → s.ovf = false) ∧
  (s.err ∈ [1#4, 2#4, 3#4] → s.hostFault.isSome)

/-- The invariant every step keeps. -/
def CoreInv (s : State) : Prop := StreamInv s ∧ RecordInv s

/-! ### What an error leaves (60_exceptions.md R223, R224) -/

/-- From `s` to `t` the error `code` of a command with opcode `op` was recorded (R223). -/
def Records (code : BitVec 4) (op : Byte) (s t : State) : Prop :=
  (s.err = 0 → t.err = code ∧ t.errOp = op ∧ t.ovf = s.ovf) ∧
  (s.err ≠ 0 → t.err = s.err ∧ t.errOp = s.errOp ∧ t.ovf = true)

/-- Nothing but the error record, and the note of R236 beside it, differs. -/
def SameButRecord (s t : State) : Prop :=
  t = { s with err := t.err, errOp := t.errOp, ovf := t.ovf, hostFault := t.hostFault }

/-- A class P error (R224): it is recorded, and there is no other effect. -/
def NoEffectBut (code : BitVec 4) (op : Byte) (s t : State) : Prop := Records code op s t ∧ SameButRecord s t

/-- The class P error a command raises once decoded, from the rows of R220 (and R80): its code, or nothing. -/
def classPError (i : Instr) (s : State) : Option (BitVec 4) :=
  match i with
  | .rgPush imm => if s.rgDir = .to8 ∧ 31 < imm.toNat then some 2 else none
  | .pmFeed imm => if 31 < imm.toNat then some 2 else none
  | .ckWord imm => if 5 < imm.toNat then some 2 else none
  | .csEnc imm => if 31 < imm.toNat then some 2 else none
  | .pmHrpHi imm => if 127 < imm.toNat then some 3 else none
  | .pmHrpLo imm => if 127 < imm.toNat then some 3 else none
  | .nop => none
  | .softReset => none
  | .clrErr => none
  | .rgInit _ _ => none
  | .rgFlush => none
  | .pmInit => none
  | .ckFinal => none
  | .ckVerify => none
  | .csDec _ => none

/-- The codes a command can raise once decoded (R220, R221). -/
def errorsOf : Opcode → List (BitVec 4)
  | .nop => []
  | .softReset => []
  | .clrErr => []
  | .rgInit => []
  | .rgPush => [2]
  | .rgFlush => [6]
  | .pmInit => []
  | .pmFeed => [2]
  | .pmHrpHi => [3]
  | .pmHrpLo => [3]
  | .ckFinal => []
  | .ckWord => [2]
  | .ckVerify => [5]
  | .csEnc => [2]
  | .csDec => [4]

/-! ### Groups of commands -/

/-- The commands of 41_regrouper.md. -/
def regrouperOps : List Opcode := [.rgInit, .rgPush, .rgFlush]

/-- The commands of 42_checksum.md and 43_charset.md. -/
def checksumOps : List Opcode :=
  [.pmInit, .pmFeed, .pmHrpHi, .pmHrpLo, .ckFinal, .ckWord, .ckVerify, .csEnc, .csDec]

/-- The words `w` that are a command, by the columns match and mask of 30_encoding.md R73. -/
def EncodedAs (matchBits mask : Reg) (command : Reg → Instr) : Prop :=
  ∀ w : Reg, w &&& mask = matchBits ↔ decode w = .ok (command w)

end Sys2Proof.Safety
end

