-- ==== Sys2Proof/Certificates/Slice0/Obligations.lean ====
section
/-! DEFINITION. The statements for the provers. Each docstring names the rule of the spec it is about and, where a
clause rests on a choice of the model, the log entry. -/

open Sys2Proof Sys2Proof.Machine Sys2Proof.Safety

/-! ### Reset -/

/-- 10_state.md R36, 70_reset_and_hazards.md R250: the state after reset, the platform's reset from any state, and
`SOFT_RESET` from any state all hold the reset values, and the constants read the same after as before. -/
def Obligations.ResetLoadsTheSpecValues : Prop :=
  let atReset : State → Prop := fun t =>
    t.acc = 1 ∧ t.cksum = 0 ∧ t.result = 0 ∧ t.err = 0 ∧ t.errOp = 0 ∧ t.ovf = false ∧ t.matchFlag = false ∧
    t.rgAcc = 0 ∧ t.rgCnt = 0 ∧ t.rgDir = .to5 ∧ t.rgPad = true ∧
    regRead 0x004 t = 0 ∧ regRead 0x014 t = 0x02000000
  atReset State.reset ∧
  ∀ (s : State) (rest : List HostEvent),
    (∃ t, step { s with pending := .reset :: rest } = .next t ∧ atReset t ∧
      ∀ off ∈ [0x020, 0x024, 0x028, 0x02C, 0x030, 0x034], regRead off t = regRead off s) ∧
    (∃ t, exec .softReset s = .next t ∧ atReset t ∧
      ∀ off ∈ [0x020, 0x024, 0x028, 0x02C, 0x030, 0x034], regRead off t = regRead off s)

/-! ### The command word -/

/-- A word of each row of 30_encoding.md R73, written out from the table, decodes to the command it stands for. -/
def Obligations.TableWordsDecodeToTheirCommands : Prop :=
  decode 0x00000000 = .ok .nop ∧ decode 0x01000000 = .ok .softReset ∧ decode 0x02000000 = .ok .clrErr ∧
  decode 0x10000100 = .ok (.rgInit .to8 false) ∧ decode 0x10000200 = .ok (.rgInit .to5 true) ∧
  decode 0x110000FF = .ok (.rgPush 0xFF) ∧ decode 0x12000000 = .ok .rgFlush ∧
  decode 0x20000000 = .ok .pmInit ∧ decode 0x21000028 = .ok (.pmFeed 40) ∧
  decode 0x22000070 = .ok (.pmHrpHi 0x70) ∧ decode 0x2300007F = .ok (.pmHrpLo 0x7F) ∧
  decode 0x24000000 = .ok .ckFinal ∧ decode 0x25000005 = .ok (.ckWord 5) ∧ decode 0x26000000 = .ok .ckVerify ∧
  decode 0x3000001F = .ok (.csEnc 31) ∧ decode 0x31000071 = .ok (.csDec 0x71)

/-- 30_encoding.md R70 to R73: decoding the encoding of a command gives it back, with every operand at every value. -/
def Obligations.DecodeInvertsEncode : Prop := ∀ i : Instr, decode (encode i) = .ok i

/-- 30_encoding.md R75, R77: a word the decoder accepts is exactly the encoding of the command it stands for, so no
bit of an accepted word is ignored. -/
def Obligations.EncodeInvertsDecode : Prop := ∀ (w : Reg) (i : Instr), decode w = .ok i → encode i = w

/-- 30_encoding.md R73, R74: a word decodes to a command of row `o` exactly when `(w & mask) == match` for that row, no
two rows match the same word, and a word that no row matches is rejected. -/
def Obligations.DecodeSelectsTheOneTableRow : Prop :=
  ∀ w : Reg,
    (∀ o : Opcode, w &&& o.mask = o.matchBits ↔ ∃ i, decode w = .ok i ∧ i.opcode = o) ∧
    (∀ o o' : Opcode, w &&& o.mask = o.matchBits → w &&& o'.mask = o'.matchBits → o = o') ∧
    ((∀ o : Opcode, w &&& o.mask ≠ o.matchBits) → ∃ r, decode w = .error r)

/-- 30_encoding.md R76: every opcode outside R73 raises `ILLEGAL_CMD` and has no other effect; the all-zero word is
`NOP`. -/
def Obligations.ReservedOpcodesRaiseIllegalCmd : Prop :=
  (∀ (w : Reg) (s : State),
    ((0x03 ≤ opField w ∧ opField w ≤ 0x0F) ∨ (0x13 ≤ opField w ∧ opField w ≤ 0x1F) ∨
      (0x27 ≤ opField w ∧ opField w ≤ 0x2F) ∨ 0x32 ≤ opField w) →
    ∃ t, execute w s = .next t ∧ NoEffectBut 1 (opField w) s t) ∧
  decode 0 = .ok .nop

/-- 30_encoding.md R75: a word whose opcode names a command but whose `RSVD` bits, or the bits of `F` or `IMM` its row
fixes, are not zero raises `ILLEGAL_CMD` with no other effect. `RG_INIT` needs `F[3:2] = 0` and `IMM = 0`, every other
command `F = 0`, and a command without an operand `IMM = 0`. -/
def Obligations.MalformedWordsRaiseIllegalCmd : Prop :=
  ∀ (w : Reg) (s : State) (o : Opcode), o.byte = opField w →
    (rsvdField w ≠ 0 ∨
      (o = .rgInit ∧ (fField w &&& 0b1100 ≠ 0 ∨ immField w ≠ 0)) ∨
      (o ≠ .rgInit ∧ fField w ≠ 0) ∨
      (o ∈ [.nop, .softReset, .clrErr, .rgFlush, .pmInit, .ckFinal, .ckVerify] ∧ immField w ≠ 0)) →
    ∃ t, execute w s = .next t ∧ NoEffectBut 1 (opField w) s t

/-! ### Steps and the window -/

/-- 20_memory.md R54, R57, 30_encoding.md R74: when the next event is the host's write of `w` to `CMD`, the step is
`exec` of the command `w` decodes to, at the state with that event taken; a word that decodes to none raises
`ILLEGAL_CMD`. `withFetchWord` puts such a write first (log 3). -/
def Obligations.StepRunsTheWrittenCommand : Prop :=
  (∀ (s : State) (w : Reg) (rest : List HostEvent), s.pending = cmdWrite s.b32Base w :: rest →
    (∀ i, decode w = .ok i → step s = exec i { s with pending := rest }) ∧
    (∀ r, decode w = .error r →
      ∃ t, step s = .next t ∧ NoEffectBut 1 (w.extractLsb' 24 8) { s with pending := rest } t)) ∧
  (∀ (s : State) (w : Reg) (i : Instr), decode w = .ok i → step (s.withFetchWord 32 w.toNat) = exec i s)

/-- 60_exceptions.md R235, 70_reset_and_hazards.md R252: between `CMD` writes the core holds its state and does
nothing. That a step with no event to come is a next state is the model's choice (log 7). -/
def Obligations.IdleCoreHoldsItsState : Prop := ∀ s : State, s.pending = [] → step s = .next s

/-- 20_memory.md R51, column content, at every admitted offset. -/
def Obligations.WindowReadsFollowTheMap : Prop :=
  ∀ (s : State) (off : Nat), off < 256 → off % 4 = 0 →
    regRead off s =
      if off = 0x000 then 0
      else if off = 0x004 then statusWord s
      else if off = 0x008 then s.result
      else if off = 0x00C then s.acc.setWidth 32
      else if off = 0x010 then s.cksum.setWidth 32
      else if off = 0x014 then rgstateWord s
      else if off = 0x020 then 0x3b6a57b2
      else if off = 0x024 then 0x26508e6d
      else if off = 0x028 then 0x1ea119fa
      else if off = 0x02C then 0x3d4233dd
      else if off = 0x030 then 0x2a1462b3
      else if off = 0x034 then 0x2bc830a3
      else 0

/-- 10_state.md R34, R35: the fields of `STATUS` and `RGSTATE`, as numbers. -/
def Obligations.StatusAndRgstateHaveTheirLayout : Prop :=
  ∀ s : State,
    (statusWord s).toNat = s.err.toNat + 2 ^ 4 * s.matchFlag.toNat + 2 ^ 8 * s.errOp.toNat + 2 ^ 16 * s.ovf.toNat ∧
    (rgstateWord s).toNat = s.rgAcc.toNat + 2 ^ 16 * s.rgCnt.toNat +
      2 ^ 24 * (if s.rgDir = .to8 then 1 else 0) + 2 ^ 25 * s.rgPad.toNat

/-- 20_memory.md R53, R55: a read returns the register's value at that moment and changes no register, so two reads with
no event between them return the same value. Where the value goes is the model's field `responses` (log 6). -/
def Obligations.ReadsHaveNoSideEffect : Prop :=
  ∀ (s : State) (off : Nat) (rest : List HostEvent), off < 256 → off % 4 = 0 →
    step { s with pending := .read (s.b32Base + off) 32 :: rest } =
      .next { s with pending := rest, responses := regRead off s :: s.responses } ∧
    regRead off { s with pending := rest, responses := regRead off s :: s.responses } = regRead off s

/-- 20_memory.md R54: a write to `CMD` executes exactly one command whose word is the written value; a write to any
other offset changes no state and raises no error. -/
def Obligations.OnlyCmdWritesHaveAnEffect : Prop :=
  ∀ (s : State) (off : Nat) (v : Reg) (rest : List HostEvent), off < 256 → off % 4 = 0 →
    step { s with pending := .write (s.b32Base + off) 32 v :: rest } =
      if off = 0 then execute v { s with pending := rest } else .next { s with pending := rest }

/-- 20_memory.md R52: an access is admitted only when it is a 32-bit access at an offset that is a multiple of 4 within
0x000..0x0FC; any other access is refused and has no step. -/
def Obligations.UnadmittedAccessesAreRefused : Prop :=
  ∀ (s : State) (addr bits : Nat) (v : Reg) (rest : List HostEvent),
    let admitted := bits = 32 ∧ ∃ off, addr = s.b32Base + off ∧ off % 4 = 0 ∧ off ≤ 0x0FC
    (admitted →
      (∃ t, step { s with pending := .read addr bits :: rest } = .next t) ∧
      (∃ t, step { s with pending := .write addr bits v :: rest } = .next t)) ∧
    (¬ admitted →
      (∃ r, step { s with pending := .read addr bits :: rest } = .refused r) ∧
      (∃ r, step { s with pending := .write addr bits v :: rest } = .refused r))

/-- 20_memory.md R57: a step serves exactly the next event; it keeps the base address and adds at most one value to
those read. Events and read values are the model's fields (log 1, log 6). -/
def Obligations.StepServesOneEventInOrder : Prop :=
  ∀ s t : State, step s = .next t →
    t.b32Base = s.b32Base ∧ t.pending = s.pending.tail ∧
    ∃ l : List Reg, t.responses = l ++ s.responses ∧ l.length ≤ 1

/-! ### Control commands -/

/-- 44_control.md R180: encoding, no effect, and a word with `OP = 0x00` and any other bit set is `ILLEGAL_CMD`. -/
def Obligations.NopLeavesEveryRegister : Prop :=
  EncodedAs 0x00000000 0xFFFFFFFF (fun _ => .nop) ∧
  (∀ s : State, exec .nop s = .next s) ∧
  (∀ (w : Reg) (s : State), w.extractLsb' 24 8 = 0#8 → w ≠ 0 →
    ∃ t, execute w s = .next t ∧ NoEffectBut 1 0 s t)

/-- 44_control.md R181: encoding, every register loaded with its reset value from any state, what the window then reads,
and the effect of hardware reset (70_reset_and_hazards.md R250), which is an event of `pending` in the model (log 13). That
the fields which are not the core's are kept is the model's reading: for the note of R236 log 4, for the events still to
come and the values read log 13. -/
def Obligations.SoftResetRestoresTheResetState : Prop :=
  EncodedAs 0x01000000 0xFFFFFFFF (fun _ => .softReset) ∧
  ∀ s : State, ∃ t, exec .softReset s = .next t ∧
    t = { s with acc := 1, cksum := 0, result := 0, err := 0, errOp := 0, ovf := false, matchFlag := false,
                 rgAcc := 0, rgCnt := 0, rgDir := .to5, rgPad := true } ∧
    regRead 0x004 t = 0 ∧ regRead 0x008 t = 0 ∧ regRead 0x00C t = 1 ∧ regRead 0x010 t = 0 ∧
    regRead 0x014 t = 0x02000000 ∧
    ∀ rest, step { s with pending := .reset :: rest } = .next { t with pending := rest }

/-- 44_control.md R182: encoding, the three fields cleared and everything else kept (the note of R236 too, log 4); with no error recorded (and the
record one a run can leave) it has no effect; a malformed `CLR_ERR` is recorded as an error; and short of a reset no
other command changes a recorded error. -/
def Obligations.ClrErrClearsOnlyTheRecord : Prop :=
  EncodedAs 0x02000000 0xFFFFFFFF (fun _ => .clrErr) ∧
  (∀ s : State, exec .clrErr s = .next { s with err := 0, errOp := 0, ovf := false }) ∧
  (∀ s : State, RecordInv s → s.err = 0 → exec .clrErr s = .next s) ∧
  (∀ (w : Reg) (s : State), w.extractLsb' 24 8 = 2#8 → w ≠ 0x02000000 →
    ∃ t, execute w s = .next t ∧ NoEffectBut 1 2 s t) ∧
  (∀ (i : Instr) (s t : State), exec i s = .next t → i ≠ .clrErr → i ≠ .softReset → s.err ≠ 0 → t.err = s.err) ∧
  (∀ s : State, regRead 0x004 s = 0x00001206 →
    ∃ t, exec .clrErr s = .next t ∧ regRead 0x004 t = 0)

/-! ### The regrouper -/

/-- 41_regrouper.md R105: encoding for all four modes, the four fields written and everything else kept, whatever stream
was open, and the example. -/
def Obligations.RgInitOpensAStream : Prop :=
  EncodedAs 0x10000000 0xFFFFFCFF (fun w => .rgInit (if w.getLsbD 8 then .to8 else .to5) (w.getLsbD 9)) ∧
  (∀ (s : State) (dir : Dir) (pad : Bool),
    exec (.rgInit dir pad) s = .next { s with rgDir := dir, rgPad := pad, rgAcc := 0, rgCnt := 0 }) ∧
  (∀ (w : Reg) (s : State), w.extractLsb' 24 8 = 0x10#8 →
    (w.extractLsb' 10 2 ≠ 0#2 ∨ w.extractLsb' 0 8 ≠ 0#8 ∨ w.extractLsb' 12 12 ≠ 0#12) →
    ∃ t, execute w s = .next t ∧ NoEffectBut 1 0x10 s t) ∧
  (∀ s : State, ∃ t, execute 0x10000100 s = .next t ∧ regRead 0x014 t = 0x01000000)

/-- 41_regrouper.md R103, R104, R106 in 8 -> 5, between commands (10_state.md R37): the pending bits and the byte are one
number of `cnt + 8` bits; its top 5 bits are `OUT0`, the next 5 `OUT1` where there are as many, and the rest stays
pending. Everything else is kept. -/
def Obligations.RgPushOfAByteEmitsTheTopWords : Prop :=
  ∀ (s : State) (imm : Byte), s.rgDir = .to5 → s.rgCnt.toNat ≤ 4 →
    let cnt := s.rgCnt.toNat
    let pend := s.rgAcc.toNat % 2 ^ cnt * 2 ^ 8 + imm.toNat
    let n := (cnt + 8) / 5
    exec (.rgPush imm) s = .next { s with
      rgAcc := BitVec.ofNat 12 (s.rgAcc.toNat * 2 ^ 8 + imm.toNat)
      rgCnt := BitVec.ofNat 4 ((cnt + 8) % 5)
      result := BitVec.ofNat 32 (n * 2 ^ 16 + (if n = 2 then pend / 2 ^ (cnt - 2) % 2 ^ 5 * 2 ^ 8 else 0) +
        pend / 2 ^ (cnt + 3) % 2 ^ 5) }

/-- 41_regrouper.md R103, R104, R106 in 5 -> 8, between commands (10_state.md R37): a word of at most 31 joins the pending
bits; once there are 8 the top 8 are `OUT0`. A larger `IMM` raises `OPERAND_RANGE` and has no other effect. -/
def Obligations.RgPushOfAWordEmitsTheTopByte : Prop :=
  ∀ (s : State) (imm : Byte), s.rgDir = .to8 →
    (s.rgCnt.toNat ≤ 7 → imm.toNat ≤ 31 →
      let cnt := s.rgCnt.toNat
      let pend := s.rgAcc.toNat % 2 ^ cnt * 2 ^ 5 + imm.toNat
      let n := (cnt + 5) / 8
      exec (.rgPush imm) s = .next { s with
        rgAcc := BitVec.ofNat 12 (s.rgAcc.toNat * 2 ^ 5 + imm.toNat)
        rgCnt := BitVec.ofNat 4 ((cnt + 5) % 8)
        result := BitVec.ofNat 32 (n * 2 ^ 16 + (if n = 1 then pend / 2 ^ (cnt - 3) else 0)) }) ∧
    (31 < imm.toNat → ∃ t, exec (.rgPush imm) s = .next t ∧ NoEffectBut 2 0x11 s t)

/-- 41_regrouper.md R107, R108 with padding, between commands: the pending bits, moved to the high end of one output, are
emitted if there are any; the stream is closed and the mode kept. -/
def Obligations.RgFlushPadsTheLeftover : Prop :=
  ∀ s : State, s.rgPad = true → StreamInv s →
    exec .rgFlush s = .next { s with
      rgAcc := 0
      rgCnt := 0
      result := if s.rgCnt = 0 then 0 else
        BitVec.ofNat 32 (2 ^ 16 + s.rgAcc.toNat % 2 ^ s.rgCnt.toNat * 2 ^ (toBits s.rgDir - s.rgCnt.toNat)) }

/-- 41_regrouper.md R107, R109 without padding: nothing is emitted and the stream is closed; the leftover is an error
exactly when it holds a whole input value or a bit of it is 1. The error is of class D: the same is written and the error
is recorded. -/
def Obligations.RgFlushChecksTheLeftover : Prop :=
  ∀ s : State, s.rgPad = false →
    let bad := fromBits s.rgDir ≤ s.rgCnt.toNat ∨ s.rgAcc.toNat % 2 ^ s.rgCnt.toNat ≠ 0
    (¬ bad → exec .rgFlush s = .next { s with rgAcc := 0, rgCnt := 0, result := 0 }) ∧
    (bad → ∃ t, exec .rgFlush s = .next t ∧ Records 6 0x12 s t ∧
      t = { s with rgAcc := 0, rgCnt := 0, result := 0, err := t.err, errOp := t.errOp, ovf := t.ovf })

/-! ### The polymod engine -/

/-- 42_checksum.md R131, its pseudocode over numbers: the low 25 bits move up by 5, the value enters below, and bit
`25 + i` of the old accumulator selects coefficient `i` of 10_state.md R32. The pseudocode is the spec's reading of PLI's
sentence (90_conflicts.md C4, 92_eei_decisions.md D9). The readings reproduce the vector `a1lqfn3a` (V-CK-07): the
checksum words of `a` with no payload are the words of `lqfn3a`. -/
def Obligations.PolyStepSelectsCoefficientsByTopBits : Prop :=
  createChecksum [0x61] [] = [31, 0, 9, 19, 17, 29] ∧
  ∀ (acc : Residue) (v : Word),
    (polyStep acc v).toNat =
      (acc.toNat % 2 ^ 25 * 2 ^ 5 ^^^ v.toNat) ^^^
      (if acc.toNat.testBit 25 then 0x3b6a57b2 else 0) ^^^ (if acc.toNat.testBit 26 then 0x26508e6d else 0) ^^^
      (if acc.toNat.testBit 27 then 0x1ea119fa else 0) ^^^ (if acc.toNat.testBit 28 then 0x3d4233dd else 0) ^^^
      (if acc.toNat.testBit 29 then 0x2a1462b3 else 0)

/-- 42_checksum.md R144: (a) the value only enters bits 4..0, (b) the step is linear, (c) six feeds leave each word in its
place above the six feeds of zero. -/
def Obligations.PolyStepIsLinear : Prop :=
  (∀ (a : Residue) (v : Word), polyStep a v = polyStep a 0 ^^^ v.setWidth 30) ∧
  (∀ a b : Residue, polyStep (a ^^^ b) 0 = polyStep a 0 ^^^ polyStep b 0) ∧
  (∀ (a : Residue) (w0 w1 w2 w3 w4 w5 : Word),
    [w0, w1, w2, w3, w4, w5].foldl polyStep a =
      [0, 0, 0, 0, 0, 0].foldl polyStep a ^^^
      (w0.setWidth 30 <<< 25 ^^^ w1.setWidth 30 <<< 20 ^^^ w2.setWidth 30 <<< 15 ^^^ w3.setWidth 30 <<< 10 ^^^
        w4.setWidth 30 <<< 5 ^^^ w5.setWidth 30))

/-- 42_checksum.md R134: encoding, effect, frame (`CKSUM` is kept, so `CK_WORD` still reads the last checksum) and the
example. -/
def Obligations.PmInitStartsASequence : Prop :=
  EncodedAs 0x20000000 0xFFFFFFFF (fun _ => .pmInit) ∧
  (∀ s : State, exec .pmInit s = .next { s with acc := 1 }) ∧
  (∀ s : State, s.acc = 0x0898AB40 → ∃ t, execute 0x20000000 s = .next t ∧ regRead 0x00C t = 0x00000001)

/-- 42_checksum.md R135: encoding, one feed of a word and nothing else, the range error, that a feed of 0 is the separator
`PM_SEP` and shifts, and the examples. -/
def Obligations.PmFeedFeedsOneWord : Prop :=
  EncodedAs 0x21000000 0xFFFFFF00 (fun w => .pmFeed (w.extractLsb' 0 8)) ∧
  (∀ (s : State) (imm : Byte), imm.toNat ≤ 31 →
    exec (.pmFeed imm) s = .next { s with acc := polyStep s.acc (imm.setWidth 5) }) ∧
  (∀ (s : State) (imm : Byte), 31 < imm.toNat →
    ∃ t, exec (.pmFeed imm) s = .next t ∧ NoEffectBut 2 0x21 s t) ∧
  assemble (.cmd .pmSep []) = some (.command (.pmFeed 0)) ∧
  (∀ (a : Residue) (v : Word), polyStep a v = polyStep a 0 ^^^ v.setWidth 30) ∧
  (∀ s : State, s.acc = 1 → exec (.pmFeed 0) s = .next { s with acc := 0x20 }) ∧
  (∀ s : State, s.acc = 0x02000000 → exec (.pmFeed 0) s = .next { s with acc := 0x3B6A57B2 })

/-- 42_checksum.md R136: encoding, one feed of `c >> 5` (a value 0..3) for every code 0..127 and nothing else, the error
for a larger code, and the example. -/
def Obligations.PmHrpHiFeedsTheHighPart : Prop :=
  EncodedAs 0x22000000 0xFFFFFF00 (fun w => .pmHrpHi (w.extractLsb' 0 8)) ∧
  (∀ (s : State) (imm : Byte), imm.toNat ≤ 127 →
    imm.toNat / 2 ^ 5 ≤ 3 ∧
    exec (.pmHrpHi imm) s = .next { s with acc := polyStep s.acc (BitVec.ofNat 5 (imm.toNat / 2 ^ 5)) }) ∧
  (∀ (s : State) (imm : Byte), 127 < imm.toNat →
    ∃ t, exec (.pmHrpHi imm) s = .next t ∧ NoEffectBut 3 0x22 s t) ∧
  (∀ s : State, s.acc = 1 → execute 0x22000070 s = .next { s with acc := 0x23 })

/-- 42_checksum.md R137: encoding, one feed of `c & 31` for every code 0..127 and nothing else, the error for a larger
code, and the example. -/
def Obligations.PmHrpLoFeedsTheLowPart : Prop :=
  EncodedAs 0x23000000 0xFFFFFF00 (fun w => .pmHrpLo (w.extractLsb' 0 8)) ∧
  (∀ (s : State) (imm : Byte), imm.toNat ≤ 127 →
    exec (.pmHrpLo imm) s = .next { s with acc := polyStep s.acc (BitVec.ofNat 5 (imm.toNat % 2 ^ 5)) }) ∧
  (∀ (s : State) (imm : Byte), 127 < imm.toNat →
    ∃ t, exec (.pmHrpLo imm) s = .next t ∧ NoEffectBut 3 0x23 s t) ∧
  (∀ s : State, s.acc = 1 → execute 0x2300007F s = .next { s with acc := 0x3F })

/-- 42_checksum.md R132: `PM_INIT` and the feeds of a sequence leave `polymod` of it in `ACC` and change nothing else;
`polymod` is the step function applied in sequence order from 1. -/
def Obligations.FeedsComputePolymod : Prop :=
  polymod [] = 1 ∧
  (∀ (vs : List Word) (v : Word), polymod (vs ++ [v]) = polyStep (polymod vs) v) ∧
  ∀ (s : State) (vs : List Word),
    runCmds (.pmInit :: vs.map fun v => .pmFeed (v.setWidth 8)) s = .next { s with acc := polymod vs }

/-! ### The checksum commands -/

/-- 42_checksum.md R138: encoding, six feeds of 0, the constant, the three registers written and nothing else, and the
example. -/
def Obligations.CkFinalCompletesAChecksum : Prop :=
  EncodedAs 0x24000000 0xFFFFFFFF (fun _ => .ckFinal) ∧
  (∀ s : State,
    let a := [0, 0, 0, 0, 0, 0].foldl polyStep s.acc
    exec .ckFinal s = .next { s with
      acc := a, cksum := a ^^^ 0x2bc830a3, result := (a ^^^ 0x2bc830a3).setWidth 32 }) ∧
  (∀ s : State, s.acc = 0x0898AB40 →
    execute 0x24000000 s = .next { s with acc := 0x10F581D0, cksum := 0x3B3DB173, result := 0x3B3DB173 })

/-- 42_checksum.md R139: encoding, word `i` of `CKSUM` in `RESULT` and nothing else, the range error, word 0 on top and
word 5 below, zero after reset, and the examples. -/
def Obligations.CkWordExtractsOneWord : Prop :=
  EncodedAs 0x25000000 0xFFFFFF00 (fun w => .ckWord (w.extractLsb' 0 8)) ∧
  (∀ (s : State) (imm : Byte), imm.toNat ≤ 5 →
    exec (.ckWord imm) s = .next { s with
      result := BitVec.ofNat 32 (s.cksum.toNat / 2 ^ (5 * (5 - imm.toNat)) % 2 ^ 5) }) ∧
  (∀ (s : State) (imm : Byte), 5 < imm.toNat →
    ∃ t, exec (.ckWord imm) s = .next t ∧ NoEffectBut 2 0x25 s t) ∧
  (∀ s : State, exec (.ckWord 0) s = .next { s with result := (s.cksum.extractLsb' 25 5).setWidth 32 } ∧
    exec (.ckWord 5) s = .next { s with result := (s.cksum.extractLsb' 0 5).setWidth 32 }) ∧
  (∀ imm : Byte, imm.toNat ≤ 5 → exec (.ckWord imm) State.reset = .next State.reset) ∧
  (∀ s : State, s.cksum = 0x3B3DB173 →
    execute 0x25000000 s = .next { s with result := 29 } ∧ execute 0x25000005 s = .next { s with result := 19 })

/-- 20_memory.md R59: the six checksum words, most significant first, are the whole of the residue. -/
def Obligations.ChecksumWordsRebuildTheResidue : Prop :=
  ∀ r : Residue,
    ((List.range 6).map fun i => (checksumWord r i).toNat * 2 ^ (5 * (5 - i))).sum = r.toNat

/-- 42_checksum.md R140: encoding, the outcome in `MATCH` and `RESULT`, the class D error on a mismatch, `ACC` kept, so
that a second `CK_VERIFY` gives the same answer, the mismatch right after reset or `PM_INIT`, and the residue of the
example (`penumbra` and its six checksum words). -/
def Obligations.CkVerifyComparesTheResidue : Prop :=
  EncodedAs 0x26000000 0xFFFFFFFF (fun _ => .ckVerify) ∧
  (∀ s : State, s.acc = 0x2bc830a3 → exec .ckVerify s = .next { s with matchFlag := true, result := 1 }) ∧
  (∀ s : State, s.acc ≠ 0x2bc830a3 → ∃ t, exec .ckVerify s = .next t ∧ Records 5 0x26 s t ∧
    t = { s with matchFlag := false, result := 0, err := t.err, errOp := t.errOp, ovf := t.ovf }) ∧
  (∀ s t u : State, exec .ckVerify s = .next t → exec .ckVerify t = .next u →
    u.matchFlag = t.matchFlag ∧ u.result = t.result) ∧
  (∀ s t u : State, exec .pmInit s = .next t → exec .ckVerify t = .next u → u.matchFlag = false) ∧
  (∀ u : State, exec .ckVerify State.reset = .next u → u.matchFlag = false) ∧
  polymod (expandHrp [0x70, 0x65, 0x6E, 0x75, 0x6D, 0x62, 0x72, 0x61] ++ [29, 19, 27, 12, 11, 19]) = 0x2bc830a3

/-- 42_checksum.md R143: verifyChecksum of the payload words with their checksum appended is true; in the core, the six
words of a checksum, fed where the checksum was made, leave `CHECKSUM_CONST`, and `CK_VERIFY` then matches. -/
def Obligations.AppendedChecksumVerifies : Prop :=
  (∀ (p : List Nat) (words : List Word), verifyChecksum p (words ++ createChecksum p words) = true) ∧
  ∀ s t u : State, exec .ckFinal s = .next t → u.acc = s.acc →
    ∃ v, runCmds ((List.range 6).map (fun i => .pmFeed ((checksumWord t.cksum i).setWidth 8)) ++ [.ckVerify]) u = .next v ∧
      v = { u with acc := 0x2bc830a3, matchFlag := true, result := 1 }

/-- 42_checksum.md R141: the command sequence reads PLI's six checksum words. -/
def Obligations.CreateChecksumSequenceIsCorrect : Prop :=
  ∀ (p : List Nat) (words : List Word) (s : State), (∀ c ∈ p, c ≤ 127) →
    ∃ t, hostCreateChecksum p (words.map (·.setWidth 8)) s =
      .next (t, (createChecksum p words).map (·.setWidth 8))

/-- 42_checksum.md R142: the command sequence reads PLI's boolean in `MATCH`. -/
def Obligations.VerifyChecksumSequenceIsCorrect : Prop :=
  ∀ (p : List Nat) (combined : List Word) (s : State), (∀ c ∈ p, c ≤ 127) →
    ∃ t, hostVerifyChecksum p (combined.map (·.setWidth 8)) s = .next (t, verifyChecksum p combined)

/-! ### The charset -/

/-- 43_charset.md R161: encoding, the character of a word in `RESULT` (a lower-case letter or a digit) and nothing else,
the range error, and the examples. -/
def Obligations.CsEncMapsAWordToItsCharacter : Prop :=
  EncodedAs 0x30000000 0xFFFFFF00 (fun w => .csEnc (w.extractLsb' 0 8)) ∧
  (∀ (s : State) (imm : Byte), imm.toNat ≤ 31 →
    exec (.csEnc imm) s = .next { s with result := (charsetRom (imm.setWidth 5)).setWidth 32 }) ∧
  (∀ v : Word, (0x61 ≤ (charsetRom v).toNat ∧ (charsetRom v).toNat ≤ 0x7A) ∨
    (0x30 ≤ (charsetRom v).toNat ∧ (charsetRom v).toNat ≤ 0x39)) ∧
  (∀ (s : State) (imm : Byte), 31 < imm.toNat →
    ∃ t, exec (.csEnc imm) s = .next t ∧ NoEffectBut 2 0x30 s t) ∧
  (∀ s : State, execute 0x30000000 s = .next { s with result := 0x71 } ∧
    execute 0x3000001F s = .next { s with result := 0x6C })

/-- 43_charset.md R162: encoding, the word of a character in `RESULT` and nothing else, `0xFF` with the class D error for
every code outside the charset (`1`, `b`, `i`, `o`, upper case and 0x80..0xFF among them), and the examples. -/
def Obligations.CsDecMapsACharacterToItsWord : Prop :=
  EncodedAs 0x31000000 0xFFFFFF00 (fun w => .csDec (w.extractLsb' 0 8)) ∧
  (∀ (s : State) (imm : Byte), imm ∈ charsetTable →
    exec (.csDec imm) s = .next { s with result := (invRom imm).setWidth 32 } ∧ (invRom imm).toNat ≤ 31) ∧
  (∀ (s : State) (imm : Byte), imm ∉ charsetTable →
    ∃ t, exec (.csDec imm) s = .next t ∧ Records 4 0x31 s t ∧
      t = { s with result := 0xFF, err := t.err, errOp := t.errOp, ovf := t.ovf }) ∧
  (∀ c : Byte, c ∈ [0x31#8, 0x62#8, 0x69#8, 0x6F#8] ∨ (0x41 ≤ c ∧ c ≤ 0x5A) ∨ 0x80 ≤ c → c ∉ charsetTable) ∧
  (∀ s : State, execute 0x31000071 s = .next { s with result := 0 } ∧
    execute 0x3100006C s = .next { s with result := 31 } ∧
    ∃ t, execute 0x31000062 s = .next t ∧ t.result = 0xFF ∧ Records 4 0x31 s t)

/-- 43_charset.md R163: the two ROMs are inverse to each other on words and on charset codes, and `CS_ENC v` then `CS_DEC`
of its result gives back `v` with no error. -/
def Obligations.CharsetIsABijection : Prop :=
  (∀ v : Word, invRom (charsetRom v) = v.setWidth 8) ∧
  (∀ c : Byte, invRom c ≠ 0xFF → charsetRom ((invRom c).setWidth 5) = c) ∧
  (∀ (s : State) (v : Word), ∃ t u,
    exec (.csEnc (v.setWidth 8)) s = .next t ∧ exec (.csDec (t.result.setWidth 8)) t = .next u ∧
    u = { s with result := v.setWidth 32 })

/-- 10_state.md R31: `INV_ROM[c] = i` when `CHARSET_ROM[i] == c`; the 32 valid entries, by character code, and `0xFF` at
the 224 other codes. -/
def Obligations.InvRomHoldsTheListedEntries : Prop :=
  let listed : List (Byte × Byte) :=
    [(0x30, 15), (0x32, 10), (0x33, 17), (0x34, 21), (0x35, 20), (0x36, 26), (0x37, 30), (0x38, 7)] ++
    [(0x39, 5), (0x61, 29), (0x63, 24), (0x64, 13), (0x65, 25), (0x66, 9), (0x67, 8), (0x68, 23)] ++
    [(0x6a, 18), (0x6b, 22), (0x6c, 31), (0x6d, 27), (0x6e, 19), (0x70, 1), (0x71, 0), (0x72, 3)] ++
    [(0x73, 16), (0x74, 11), (0x75, 28), (0x76, 12), (0x77, 14), (0x78, 6), (0x79, 4), (0x7a, 2)]
  (∀ (i : Word) (c : Byte), charsetRom i = c → invRom c = i.setWidth 8) ∧
  (∀ e ∈ listed, invRom e.1 = e.2) ∧ listed.length = 32 ∧
  (∀ c : Byte, c ∉ listed.map Prod.fst → invRom c = 0xFF) ∧
  (∀ c : Byte, invRom c = 0xFF ∨ (invRom c).toNat ≤ 31 ∧ charsetRom ((invRom c).setWidth 5) = c)

/-! ### Errors -/

/-- 60_exceptions.md R223: the first error is kept with the opcode of its command, a later one only sets `OVF`. -/
def Obligations.RaiseKeepsTheFirstError : Prop :=
  ∀ (e : ErrCode) (op : Byte) (s : State), Records e.code op s (raiseErr e op s) ∧ SameButRecord s (raiseErr e op s)

/-- 60_exceptions.md R224, class P, for every command (with R220 for which operands) and for every word that is no
command (`ILLEGAL_CMD`, 30_encoding.md R75, R76): the error is recorded with the opcode of the word and nothing else
changes. That it is noted as a fault of the host program is R236 (log 4); a command that raises no class P error leaves
that note alone. -/
def Obligations.ClassPErrorsHaveNoOtherEffect : Prop :=
  (∀ (i : Instr) (s : State),
    (∀ code, classPError i s = some code →
      ∃ t, exec i s = .next t ∧ NoEffectBut code i.opcode.byte s t ∧
        (s.hostFault = none → t.hostFault = some (if code = 3 then .hrpChar else .operandRange))) ∧
    (∀ t, classPError i s = none → exec i s = .next t → t.hostFault = s.hostFault)) ∧
  (∀ (w : Reg) (s : State) (r : Reject), decode w = .error r →
    ∃ t, execute w s = .next t ∧ NoEffectBut 1 (w.extractLsb' 24 8) s t ∧
      (s.hostFault = none → t.hostFault = some .illegalCmd))

/-- 60_exceptions.md R225: an error does not stop the core, and every command executes by its own rule whatever the error
record holds: two states that differ only in the record (and the note of R236 beside it) give states that differ only
there. -/
def Obligations.ErrorsDoNotStopTheCore : Prop :=
  ∀ (i : Instr) (s : State) (err : BitVec 4) (errOp : Byte) (ovf : Bool) (note : Option Fault),
    ∃ t t', exec i s = .next t ∧
      exec i { s with err := err, errOp := errOp, ovf := ovf, hostFault := note } = .next t' ∧
      SameButRecord t t'

/-- 10_state.md R25, R27, R28: once an error is recorded no command but `CLR_ERR` and `SOFT_RESET` changes `ERR` or
`ERR_OP`, and none but these clears `OVF`. -/
def Obligations.RecordedErrorIsKept : Prop :=
  ∀ (i : Instr) (s t : State), exec i s = .next t → i ≠ .clrErr → i ≠ .softReset →
    (s.err ≠ 0 → t.err = s.err ∧ t.errOp = s.errOp) ∧ (s.ovf = true → t.ovf = true)

/-- 60_exceptions.md R236: the note of a class P error is a fault that no later step clears, `CLR_ERR`, `SOFT_RESET` and
hardware reset included (log 4). That it stays the SAME fault when another class P error follows is the model's choice
(log 5). -/
def Obligations.HostFaultIsNeverCleared : Prop :=
  ∀ (s t : State) (f : Fault), step s = .next t → s.hostFault = some f → t.hostFault = some f

/-- 60_exceptions.md R220, R221: from a clear record a command leaves either a clear record or one of the codes listed for
it, with its own opcode, and a command for which none is listed never loses one. -/
def Obligations.CommandsRaiseOnlyTheirErrors : Prop :=
  ∀ (i : Instr) (s t : State), exec i s = .next t →
    (s.err = 0 → t.err = 0 ∨ (t.err ∈ errorsOf i.opcode ∧ t.errOp = i.opcode.byte)) ∧
    (errorsOf i.opcode = [] → t.ovf = true → s.ovf = true)

/-- 10_state.md R22 to R24, R26, R29: which commands write each register. -/
def Obligations.OnlyListedCommandsWriteARegister : Prop :=
  ∀ (i : Instr) (s t : State), exec i s = .next t →
    (t.acc ≠ s.acc → i.opcode ∈ [.pmInit, .pmFeed, .pmHrpHi, .pmHrpLo, .ckFinal, .softReset]) ∧
    (t.cksum ≠ s.cksum → i.opcode ∈ [.ckFinal, .softReset]) ∧
    (t.result ≠ s.result →
      i.opcode ∈ [.rgPush, .rgFlush, .ckFinal, .ckWord, .ckVerify, .csEnc, .csDec, .softReset]) ∧
    (t.matchFlag ≠ s.matchFlag → i.opcode ∈ [.ckVerify, .softReset]) ∧
    (t.rgDir ≠ s.rgDir ∨ t.rgPad ≠ s.rgPad → i.opcode ∈ [.rgInit, .softReset]) ∧
    (t.rgAcc ≠ s.rgAcc ∨ t.rgCnt ≠ s.rgCnt → i.opcode ∈ [.rgInit, .rgPush, .rgFlush, .softReset]) ∧
    t.b32Base = s.b32Base ∧ t.pending = s.pending ∧ t.responses = s.responses

/-- 10_state.md R37 and 60_exceptions.md R220, R223, R236: every step keeps the invariant, from every state that has it:
`RG_CNT < toBits`, and the error record is one that recording can leave. -/
def Obligations.StepKeepsTheCoreInvariant : Prop := ∀ s t : State, CoreInv s → step s = .next t → CoreInv t

/-- The reset state has the invariant. -/
def Obligations.ResetHasTheCoreInvariant : Prop := CoreInv State.reset

/-- 41_regrouper.md R112, 70_reset_and_hazards.md R256: a regrouper command and a checksum or charset command may be
exchanged without changing the checksum state or the stream. -/
def Obligations.RegrouperAndChecksumCommandsCommute : Prop :=
  ∀ (i j : Instr) (s a ab b ba : State), i.opcode ∈ regrouperOps → j.opcode ∈ checksumOps →
    exec i s = .next a → exec j a = .next ab → exec j s = .next b → exec i b = .next ba →
    ab.acc = ba.acc ∧ ab.cksum = ba.cksum ∧ ab.matchFlag = ba.matchFlag ∧
    ab.rgAcc = ba.rgAcc ∧ ab.rgCnt = ba.rgCnt ∧ ab.rgDir = ba.rgDir ∧ ab.rgPad = ba.rgPad ∧
    a.acc = s.acc ∧ a.cksum = s.cksum ∧ a.matchFlag = s.matchFlag ∧
    b.rgAcc = s.rgAcc ∧ b.rgCnt = s.rgCnt ∧ b.rgDir = s.rgDir ∧ b.rgPad = s.rgPad

/-! ### Laws of a stream -/

/-- 41_regrouper.md R110: a stream's outputs are PLI's regroup of its data, `NONZERO_PADDING` is recorded exactly when
regroup reports its error, and the output lengths are the ones PLI gives. -/
def Obligations.StreamComputesRegroup : Prop :=
  ∀ (dir : Dir) (pad : Bool) (data : List Byte) (s : State), (∀ v ∈ data, v.toNat < 2 ^ fromBits dir) →
    ∃ s' t outs, exec (.rgInit dir pad) s = .next s' ∧ runStream (streamCmds data) s' = .next (t, outs) ∧
      let out := regroup (fromBits dir) (toBits dir) pad (data.map BitVec.toNat)
      outs.map BitVec.toNat = out.1 ∧
      (out.2 = false → t.err = s.err ∧ t.errOp = s.errOp ∧ t.ovf = s.ovf) ∧
      (out.2 = true → Records 6 0x12 s t) ∧
      (dir = .to5 → pad = true → outs.length = (8 * data.length + 4) / 5) ∧
      (dir = .to8 → pad = false → out.2 = false → outs.length = 5 * data.length / 8) ∧
      (dir = .to5 → pad = false → outs.length = 8 * data.length / 5 ∧
        (out.2 = true ↔
          true ∈ (bitstream 8 (data.map BitVec.toNat)).drop (8 * data.length - 8 * data.length % 5))) ∧
      (dir = .to8 → pad = true → outs.length = (5 * data.length + 7) / 8)

/-- 20_memory.md R58: input and output of a stream are one bitstream, most significant bit first. With padding the outputs
continue it with fewer than `toBits` zero bits; without, fewer than `toBits` bits are left out. -/
def Obligations.StreamKeepsTheBitstream : Prop :=
  ∀ (dir : Dir) (pad : Bool) (data : List Byte) (s s' t : State) (outs : List Byte),
    (∀ v ∈ data, v.toNat < 2 ^ fromBits dir) → exec (.rgInit dir pad) s = .next s' →
    runStream (streamCmds data) s' = .next (t, outs) →
    let input := bitstream (fromBits dir) (data.map BitVec.toNat)
    let output := bitstream (toBits dir) (outs.map BitVec.toNat)
    (pad = true → ∃ k, k < toBits dir ∧ output = input ++ List.replicate k false) ∧
    (pad = false → ∃ left, left.length < toBits dir ∧ input = output ++ left)

/-- 41_regrouper.md R111: regrouping any bytes 8 -> 5 with padding and the words 5 -> 8 without padding returns the bytes
and raises no error. Before the last flush `RG_CNT` is `5 * ceil(8n / 5) - 8n`, at most 4, and the pending bits are
zero. -/
def Obligations.RegroupRoundTrip : Prop :=
  ∀ (b : List Byte) (s : State), ∃ s1 s2 s3 s4 s5 words,
    exec (.rgInit .to5 true) s = .next s1 ∧ runStream (streamCmds b) s1 = .next (s2, words) ∧
    exec (.rgInit .to8 false) s2 = .next s3 ∧
    runStream (words.map .rgPush) s3 = .next (s4, b) ∧
    s4.rgCnt.toNat = 5 * ((8 * b.length + 4) / 5) - 8 * b.length ∧ s4.rgCnt.toNat ≤ 4 ∧
    s4.rgAcc.toNat % 2 ^ s4.rgCnt.toNat = 0 ∧
    runStream (streamCmds words) s3 = .next (s5, b) ∧
    s5.err = s.err ∧ s5.errOp = s.errOp ∧ s5.ovf = s.ovf ∧ s5.hostFault = s.hostFault

/-! ### The host procedures -/

/-- 45_host_procedures.md R192, R193, R194: ENCODE returns PLI's encode of its arguments, whatever the core did before; it
issues no command for an empty or non-ASCII start, and after a correct ENCODE no error is recorded and none was noted. The
result has the length and the characters of R194. -/
def Obligations.EncodeComputesPliEncode : Prop :=
  ∀ (p : List Nat) (b : List Byte) (s : State), ∃ t, hostEncode p b s = .next (t, pliEncode p b) ∧
    (p = [] → pliEncode p b = .error .emptyHrp ∧ t = s) ∧
    (p ≠ [] → (∃ c ∈ p, 127 < c) → pliEncode p b = .error .hrpCharacter ∧ t = s) ∧
    (p ≠ [] → (∀ c ∈ p, c ≤ 127) →
      t.err = 0 ∧ t.hostFault = s.hostFault ∧
      ∃ d, pliEncode p b = .ok (p ++ [0x31] ++ d) ∧ d.length = (8 * b.length + 4) / 5 + 6 ∧
        ∀ c ∈ d, c ∈ charsetTable.map BitVec.toNat)

/-- 45_host_procedures.md R195 to R204: DECODE returns PLI's decode of its argument, with the errors in the order of R201,
whatever the core did before. The split, which both use, is at the last separator (R195): what follows holds none. -/
def Obligations.DecodeComputesPliDecode : Prop :=
  (∀ (str : List Nat) (s : State), ∃ t, hostDecode str s = .next (t, pliDecode str)) ∧
  (∀ str p d : List Nat, splitAtLast str = some (p, d) ↔ str = p ++ [0x31] ++ d ∧ 0x31 ∉ d) ∧
  (∀ str : List Nat, splitAtLast str = none ↔ 0x31 ∉ str)

/-- 45_host_procedures.md R205: `DECODE(ENCODE(p, b)) = (p, b)` for every start `p` that is not empty and whose code points
are at most 127, and every byte buffer `b`. -/
def Obligations.DecodeOfEncodeReturnsTheInput : Prop :=
  ∀ (p : List Nat) (b : List Byte) (s : State), p ≠ [] → (∀ c ∈ p, c ≤ 127) →
    ∃ t str u, hostEncode p b s = .next (t, .ok str) ∧ hostDecode str t = .next (u, .ok (p, b))

/-- 00_scope.md R9, 20_memory.md R57, 45_host_procedures.md R191, R192 and R200: a run of a host procedure is a run of the
machine's own steps over the accesses the pseudocode names, in its order, up to the first failure (`encodeAccesses` and
`decodeAccesses`, computed from the arguments alone). The values those reads return are what the procedure goes on
with: following it over them gives these accesses and what it returned (log 15). -/
def Obligations.HostProceduresAreRunsOfSteps : Prop :=
  (∀ (p : List Nat) (b : List Byte) (s : State), s.pending = [] →
    let evs := encodeAccesses s.b32Base p b
    ∃ t r reads, hostEncode p b s = .next (t, r) ∧ t.responses = reads.reverse ++ s.responses ∧
      follow s.b32Base (encodeProc p b) reads = some (evs, r) ∧
      core.run evs.length { s with pending := evs } = .next t) ∧
  (∀ (str : List Nat) (s : State), s.pending = [] →
    let evs := decodeAccesses s.b32Base str
    ∃ t r reads, hostDecode str s = .next (t, r) ∧ t.responses = reads.reverse ++ s.responses ∧
      follow s.b32Base (decodeProc str) reads = some (evs, r) ∧
      core.run evs.length { s with pending := evs } = .next t)

/-! ### The assembler -/

/-- 30_encoding.md R78: the assembler accepts exactly the well-formed lines, and what each stands for. A command with an
`<imm>` takes one number, at most 255 and any such number; `RG_INIT` takes a direction and then 0 or 1; any other command
takes no operand; `RD` and `WR` are accesses of the register's offset, and `WR CMD` is what a mnemonic stands for. The
bound of a `WR` value is log 16. -/
def Obligations.AssemblerAcceptsTheWellFormedLines : Prop :=
  (∀ l : AsmLine, (assemble l).isSome = l.wellFormed) ∧
  (∀ (o : Opcode) (ops : List AsmOperand), o.shape = .imm →
    ((assemble (.cmd (.core o) ops)).isSome ↔ ∃ n, ops = [.num n] ∧ n ≤ 255) ∧
    ∀ n, n ≤ 255 → ops = [.num n] → ∃ i, assemble (.cmd (.core o) ops) = some (.command i) ∧ i.opcode = o ∧
      immField (encode i) = BitVec.ofNat 8 n) ∧
  (∀ (ops : List AsmOperand) (c : AsmItem), assemble (.cmd (.core .rgInit) ops) = some c ↔
    ∃ dir pad, ops = [.dir dir, .num pad] ∧ pad ≤ 1 ∧ c = .command (.rgInit dir (pad = 1))) ∧
  (∀ (o : Opcode) (ops : List AsmOperand), o.shape = .none →
    ((assemble (.cmd (.core o) ops)).isSome ↔ ops = []) ∧
    ∀ c, assemble (.cmd (.core o) ops) = some c → ∃ i, c = .command i ∧ i.opcode = o) ∧
  (∀ (r : RegName) (v : Nat), assemble (.rd r) = some (.read r) ∧
    (v < 2 ^ 32 → assemble (.wr r v) = some (.write r (BitVec.ofNat 32 v)))) ∧
  (∀ (base : Nat) (i : Instr), itemEvent base (.command i) = itemEvent base (.write .cmd (encode i)))

/-- 30_encoding.md R79: the three pseudo-commands, their expansions and their words. -/
def Obligations.PseudoCommandsExpand : Prop :=
  assemble (.cmd .pmSep []) = some (.command (.pmFeed 0)) ∧ encode (.pmFeed 0) = 0x21000000 ∧
  assemble (.cmd .rgOpenEnc []) = some (.command (.rgInit .to5 true)) ∧ encode (.rgInit .to5 true) = 0x10000200 ∧
  assemble (.cmd .rgOpenDec []) = some (.command (.rgInit .to8 false)) ∧ encode (.rgInit .to8 false) = 0x10000100
end

