-- ==== Sys2Proof/Laws/Decode.lean ====
section
/-! SUPPORT. The opcode table and the decoder: which row a word selects, and when a word decodes. -/

namespace Sys2Proof

theorem mem_all (o : Opcode) : o ∈ Opcode.all := by cases o <;> decide

/-- The mask of every row covers `OP`, and the match of a row has the row's opcode there (R73). -/
theorem opField_row (o : Opcode) : opField o.mask = BitVec.allOnes 8 ∧ opField o.matchBits = o.byte := by
  cases o <;> decide

theorem opField_and (a b : Reg) : opField (a &&& b) = opField a &&& opField b := BitVec.extractLsb'_and ..

/-- A word that matches a row has the row's opcode. -/
theorem opField_of_match {o : Opcode} {w : Reg} (h : w &&& o.mask = o.matchBits) : opField w = o.byte := by
  have := congrArg opField h
  rwa [opField_and, (opField_row o).1, (opField_row o).2, BitVec.and_allOnes] at this

theorem byte_injective {o o' : Opcode} (h : o.byte = o'.byte) : o = o' := by
  revert h; cases o <;> cases o' <;> decide

@[simp] theorem build_opcode (o : Opcode) (w : Reg) : (o.build w).opcode = o := by cases o <;> rfl

/-- A word decodes to `i` exactly when it matches a row and the row builds `i` from it. -/
theorem decode_ok_iff {w : Reg} {i : Instr} :
    decode w = .ok i ↔ ∃ o : Opcode, w &&& o.mask = o.matchBits ∧ o.build w = i := by
  unfold decode
  split
  · rename_i o h
    have h := List.find?_some h
    simp only [Opcode.selects, beq_iff_eq] at h
    refine ⟨fun h' => ⟨o, h, by injection h'⟩, ?_⟩
    rintro ⟨o', h1, h2⟩
    have := byte_injective ((opField_of_match h).symm.trans (opField_of_match h1))
    subst this
    rw [h2]
  · rename_i h
    rw [List.find?_eq_none] at h
    refine ⟨(nomatch ·), ?_⟩
    rintro ⟨o', h1, -⟩
    exact absurd (by simpa [Opcode.selects] using h1) (h o' (mem_all o'))

/-- A word that matches no row is rejected. -/
theorem decode_error {w : Reg} (h : ∀ o : Opcode, w &&& o.mask ≠ o.matchBits) : ∃ r, decode w = .error r := by
  cases hd : decode w with
  | error r => exact ⟨r, rfl⟩
  | ok i =>
    obtain ⟨o, h1, -⟩ := decode_ok_iff.mp hd
    exact absurd h1 (h o)

/-- A word splits into the bits a row fixes and the bits it leaves to the operands. -/
theorem word_split (w m : Reg) : (w &&& m) ||| (w &&& ~~~ m) = w := by
  rw [← BitVec.and_or_distrib_left, BitVec.or_not_self, BitVec.and_allOnes]

end Sys2Proof
end

