-- ==== Sys2Proof/Laws/Operands.lean ====
section
/-! SUPPORT. When each operand check passes, and what it gives. -/

namespace Sys2Proof.Machine

variable {imm : Byte} {d : Dir}

theorem wordOperand_ok (h : imm.toNat ≤ 31) : wordOperand imm = some (imm.setWidth 5) := if_pos h

theorem wordOperand_bad (h : 31 < imm.toNat) : wordOperand imm = none := if_neg (Nat.not_le.mpr h)

theorem hrpHigh_ok (h : imm.toNat ≤ 127) : hrpHigh imm = some ((imm >>> 5).setWidth 5) := if_pos h

theorem hrpHigh_bad (h : 127 < imm.toNat) : hrpHigh imm = none := if_neg (Nat.not_le.mpr h)

theorem hrpLow_ok (h : imm.toNat ≤ 127) : hrpLow imm = some ((imm &&& 31).setWidth 5) := if_pos h

theorem hrpLow_bad (h : 127 < imm.toNat) : hrpLow imm = none := if_neg (Nat.not_le.mpr h)

theorem checksumIndex_ok (h : imm.toNat ≤ 5) : checksumIndex imm = some imm.toNat := if_pos (Nat.lt_succ_of_le h)

theorem checksumIndex_bad (h : 5 < imm.toNat) : checksumIndex imm = none := if_neg (Nat.not_lt.mpr h)

theorem streamOperand_ok (h : imm.toNat < 2 ^ fromBits d) : streamOperand d imm = some imm := if_pos h

theorem streamOperand_bad (h : 2 ^ fromBits d ≤ imm.toNat) : streamOperand d imm = none := if_neg (Nat.not_lt.mpr h)

/-- In 8 -> 5 every `IMM` fits (41_regrouper.md R102). -/
theorem streamOperand_to5 : streamOperand .to5 imm = some imm := streamOperand_ok imm.isLt

end Sys2Proof.Machine
end

