-- ==== Sys2Proof/Laws/State.lean ====
section
/-! SUPPORT. What each update of the state writes and keeps, field by field. -/

namespace Sys2Proof.Machine.State

variable (s : State)

@[simp] theorem setAcc_acc (v : Residue) : (s.setAcc v).acc = v := rfl
@[simp] theorem setAcc_cksum (v : Residue) : (s.setAcc v).cksum = s.cksum := rfl
@[simp] theorem setAcc_result (v : Residue) : (s.setAcc v).result = s.result := rfl
@[simp] theorem setAcc_err (v : Residue) : (s.setAcc v).err = s.err := rfl
@[simp] theorem setAcc_matchFlag (v : Residue) : (s.setAcc v).matchFlag = s.matchFlag := rfl
@[simp] theorem setAcc_errOp (v : Residue) : (s.setAcc v).errOp = s.errOp := rfl
@[simp] theorem setAcc_ovf (v : Residue) : (s.setAcc v).ovf = s.ovf := rfl
@[simp] theorem setAcc_rgAcc (v : Residue) : (s.setAcc v).rgAcc = s.rgAcc := rfl
@[simp] theorem setAcc_rgCnt (v : Residue) : (s.setAcc v).rgCnt = s.rgCnt := rfl
@[simp] theorem setAcc_rgDir (v : Residue) : (s.setAcc v).rgDir = s.rgDir := rfl
@[simp] theorem setAcc_rgPad (v : Residue) : (s.setAcc v).rgPad = s.rgPad := rfl
@[simp] theorem setAcc_b32Base (v : Residue) : (s.setAcc v).b32Base = s.b32Base := rfl
@[simp] theorem setAcc_pending (v : Residue) : (s.setAcc v).pending = s.pending := rfl
@[simp] theorem setAcc_responses (v : Residue) : (s.setAcc v).responses = s.responses := rfl
@[simp] theorem setAcc_hostFault (v : Residue) : (s.setAcc v).hostFault = s.hostFault := rfl

@[simp] theorem setCksum_acc (v : Residue) : (s.setCksum v).acc = s.acc := rfl
@[simp] theorem setCksum_cksum (v : Residue) : (s.setCksum v).cksum = v := rfl
@[simp] theorem setCksum_result (v : Residue) : (s.setCksum v).result = s.result := rfl
@[simp] theorem setCksum_err (v : Residue) : (s.setCksum v).err = s.err := rfl
@[simp] theorem setCksum_matchFlag (v : Residue) : (s.setCksum v).matchFlag = s.matchFlag := rfl
@[simp] theorem setCksum_errOp (v : Residue) : (s.setCksum v).errOp = s.errOp := rfl
@[simp] theorem setCksum_ovf (v : Residue) : (s.setCksum v).ovf = s.ovf := rfl
@[simp] theorem setCksum_rgAcc (v : Residue) : (s.setCksum v).rgAcc = s.rgAcc := rfl
@[simp] theorem setCksum_rgCnt (v : Residue) : (s.setCksum v).rgCnt = s.rgCnt := rfl
@[simp] theorem setCksum_rgDir (v : Residue) : (s.setCksum v).rgDir = s.rgDir := rfl
@[simp] theorem setCksum_rgPad (v : Residue) : (s.setCksum v).rgPad = s.rgPad := rfl
@[simp] theorem setCksum_b32Base (v : Residue) : (s.setCksum v).b32Base = s.b32Base := rfl
@[simp] theorem setCksum_pending (v : Residue) : (s.setCksum v).pending = s.pending := rfl
@[simp] theorem setCksum_responses (v : Residue) : (s.setCksum v).responses = s.responses := rfl
@[simp] theorem setCksum_hostFault (v : Residue) : (s.setCksum v).hostFault = s.hostFault := rfl

@[simp] theorem setResult_acc (v : Reg) : (s.setResult v).acc = s.acc := rfl
@[simp] theorem setResult_cksum (v : Reg) : (s.setResult v).cksum = s.cksum := rfl
@[simp] theorem setResult_result (v : Reg) : (s.setResult v).result = v := rfl
@[simp] theorem setResult_err (v : Reg) : (s.setResult v).err = s.err := rfl
@[simp] theorem setResult_matchFlag (v : Reg) : (s.setResult v).matchFlag = s.matchFlag := rfl
@[simp] theorem setResult_errOp (v : Reg) : (s.setResult v).errOp = s.errOp := rfl
@[simp] theorem setResult_ovf (v : Reg) : (s.setResult v).ovf = s.ovf := rfl
@[simp] theorem setResult_rgAcc (v : Reg) : (s.setResult v).rgAcc = s.rgAcc := rfl
@[simp] theorem setResult_rgCnt (v : Reg) : (s.setResult v).rgCnt = s.rgCnt := rfl
@[simp] theorem setResult_rgDir (v : Reg) : (s.setResult v).rgDir = s.rgDir := rfl
@[simp] theorem setResult_rgPad (v : Reg) : (s.setResult v).rgPad = s.rgPad := rfl
@[simp] theorem setResult_b32Base (v : Reg) : (s.setResult v).b32Base = s.b32Base := rfl
@[simp] theorem setResult_pending (v : Reg) : (s.setResult v).pending = s.pending := rfl
@[simp] theorem setResult_responses (v : Reg) : (s.setResult v).responses = s.responses := rfl
@[simp] theorem setResult_hostFault (v : Reg) : (s.setResult v).hostFault = s.hostFault := rfl

@[simp] theorem setMatch_acc (b : Bool) : (s.setMatch b).acc = s.acc := rfl
@[simp] theorem setMatch_cksum (b : Bool) : (s.setMatch b).cksum = s.cksum := rfl
@[simp] theorem setMatch_result (b : Bool) : (s.setMatch b).result = s.result := rfl
@[simp] theorem setMatch_err (b : Bool) : (s.setMatch b).err = s.err := rfl
@[simp] theorem setMatch_matchFlag (b : Bool) : (s.setMatch b).matchFlag = b := rfl
@[simp] theorem setMatch_errOp (b : Bool) : (s.setMatch b).errOp = s.errOp := rfl
@[simp] theorem setMatch_ovf (b : Bool) : (s.setMatch b).ovf = s.ovf := rfl
@[simp] theorem setMatch_rgAcc (b : Bool) : (s.setMatch b).rgAcc = s.rgAcc := rfl
@[simp] theorem setMatch_rgCnt (b : Bool) : (s.setMatch b).rgCnt = s.rgCnt := rfl
@[simp] theorem setMatch_rgDir (b : Bool) : (s.setMatch b).rgDir = s.rgDir := rfl
@[simp] theorem setMatch_rgPad (b : Bool) : (s.setMatch b).rgPad = s.rgPad := rfl
@[simp] theorem setMatch_b32Base (b : Bool) : (s.setMatch b).b32Base = s.b32Base := rfl
@[simp] theorem setMatch_pending (b : Bool) : (s.setMatch b).pending = s.pending := rfl
@[simp] theorem setMatch_responses (b : Bool) : (s.setMatch b).responses = s.responses := rfl
@[simp] theorem setMatch_hostFault (b : Bool) : (s.setMatch b).hostFault = s.hostFault := rfl

@[simp] theorem setErr_acc (c : BitVec 4) (o : Byte) : (s.setErr c o).acc = s.acc := rfl
@[simp] theorem setErr_cksum (c : BitVec 4) (o : Byte) : (s.setErr c o).cksum = s.cksum := rfl
@[simp] theorem setErr_result (c : BitVec 4) (o : Byte) : (s.setErr c o).result = s.result := rfl
@[simp] theorem setErr_err (c : BitVec 4) (o : Byte) : (s.setErr c o).err = c := rfl
@[simp] theorem setErr_matchFlag (c : BitVec 4) (o : Byte) : (s.setErr c o).matchFlag = s.matchFlag := rfl
@[simp] theorem setErr_errOp (c : BitVec 4) (o : Byte) : (s.setErr c o).errOp = o := rfl
@[simp] theorem setErr_ovf (c : BitVec 4) (o : Byte) : (s.setErr c o).ovf = s.ovf := rfl
@[simp] theorem setErr_rgAcc (c : BitVec 4) (o : Byte) : (s.setErr c o).rgAcc = s.rgAcc := rfl
@[simp] theorem setErr_rgCnt (c : BitVec 4) (o : Byte) : (s.setErr c o).rgCnt = s.rgCnt := rfl
@[simp] theorem setErr_rgDir (c : BitVec 4) (o : Byte) : (s.setErr c o).rgDir = s.rgDir := rfl
@[simp] theorem setErr_rgPad (c : BitVec 4) (o : Byte) : (s.setErr c o).rgPad = s.rgPad := rfl
@[simp] theorem setErr_b32Base (c : BitVec 4) (o : Byte) : (s.setErr c o).b32Base = s.b32Base := rfl
@[simp] theorem setErr_pending (c : BitVec 4) (o : Byte) : (s.setErr c o).pending = s.pending := rfl
@[simp] theorem setErr_responses (c : BitVec 4) (o : Byte) : (s.setErr c o).responses = s.responses := rfl
@[simp] theorem setErr_hostFault (c : BitVec 4) (o : Byte) : (s.setErr c o).hostFault = s.hostFault := rfl

@[simp] theorem setOvf_acc (b : Bool) : (s.setOvf b).acc = s.acc := rfl
@[simp] theorem setOvf_cksum (b : Bool) : (s.setOvf b).cksum = s.cksum := rfl
@[simp] theorem setOvf_result (b : Bool) : (s.setOvf b).result = s.result := rfl
@[simp] theorem setOvf_err (b : Bool) : (s.setOvf b).err = s.err := rfl
@[simp] theorem setOvf_matchFlag (b : Bool) : (s.setOvf b).matchFlag = s.matchFlag := rfl
@[simp] theorem setOvf_errOp (b : Bool) : (s.setOvf b).errOp = s.errOp := rfl
@[simp] theorem setOvf_ovf (b : Bool) : (s.setOvf b).ovf = b := rfl
@[simp] theorem setOvf_rgAcc (b : Bool) : (s.setOvf b).rgAcc = s.rgAcc := rfl
@[simp] theorem setOvf_rgCnt (b : Bool) : (s.setOvf b).rgCnt = s.rgCnt := rfl
@[simp] theorem setOvf_rgDir (b : Bool) : (s.setOvf b).rgDir = s.rgDir := rfl
@[simp] theorem setOvf_rgPad (b : Bool) : (s.setOvf b).rgPad = s.rgPad := rfl
@[simp] theorem setOvf_b32Base (b : Bool) : (s.setOvf b).b32Base = s.b32Base := rfl
@[simp] theorem setOvf_pending (b : Bool) : (s.setOvf b).pending = s.pending := rfl
@[simp] theorem setOvf_responses (b : Bool) : (s.setOvf b).responses = s.responses := rfl
@[simp] theorem setOvf_hostFault (b : Bool) : (s.setOvf b).hostFault = s.hostFault := rfl

@[simp] theorem setStream_acc (a : RgAcc) (c : BitVec 4) : (s.setStream a c).acc = s.acc := rfl
@[simp] theorem setStream_cksum (a : RgAcc) (c : BitVec 4) : (s.setStream a c).cksum = s.cksum := rfl
@[simp] theorem setStream_result (a : RgAcc) (c : BitVec 4) : (s.setStream a c).result = s.result := rfl
@[simp] theorem setStream_err (a : RgAcc) (c : BitVec 4) : (s.setStream a c).err = s.err := rfl
@[simp] theorem setStream_matchFlag (a : RgAcc) (c : BitVec 4) : (s.setStream a c).matchFlag = s.matchFlag := rfl
@[simp] theorem setStream_errOp (a : RgAcc) (c : BitVec 4) : (s.setStream a c).errOp = s.errOp := rfl
@[simp] theorem setStream_ovf (a : RgAcc) (c : BitVec 4) : (s.setStream a c).ovf = s.ovf := rfl
@[simp] theorem setStream_rgAcc (a : RgAcc) (c : BitVec 4) : (s.setStream a c).rgAcc = a := rfl
@[simp] theorem setStream_rgCnt (a : RgAcc) (c : BitVec 4) : (s.setStream a c).rgCnt = c := rfl
@[simp] theorem setStream_rgDir (a : RgAcc) (c : BitVec 4) : (s.setStream a c).rgDir = s.rgDir := rfl
@[simp] theorem setStream_rgPad (a : RgAcc) (c : BitVec 4) : (s.setStream a c).rgPad = s.rgPad := rfl
@[simp] theorem setStream_b32Base (a : RgAcc) (c : BitVec 4) : (s.setStream a c).b32Base = s.b32Base := rfl
@[simp] theorem setStream_pending (a : RgAcc) (c : BitVec 4) : (s.setStream a c).pending = s.pending := rfl
@[simp] theorem setStream_responses (a : RgAcc) (c : BitVec 4) : (s.setStream a c).responses = s.responses := rfl
@[simp] theorem setStream_hostFault (a : RgAcc) (c : BitVec 4) : (s.setStream a c).hostFault = s.hostFault := rfl

@[simp] theorem setMode_acc (d : Dir) (p : Bool) : (s.setMode d p).acc = s.acc := rfl
@[simp] theorem setMode_cksum (d : Dir) (p : Bool) : (s.setMode d p).cksum = s.cksum := rfl
@[simp] theorem setMode_result (d : Dir) (p : Bool) : (s.setMode d p).result = s.result := rfl
@[simp] theorem setMode_err (d : Dir) (p : Bool) : (s.setMode d p).err = s.err := rfl
@[simp] theorem setMode_matchFlag (d : Dir) (p : Bool) : (s.setMode d p).matchFlag = s.matchFlag := rfl
@[simp] theorem setMode_errOp (d : Dir) (p : Bool) : (s.setMode d p).errOp = s.errOp := rfl
@[simp] theorem setMode_ovf (d : Dir) (p : Bool) : (s.setMode d p).ovf = s.ovf := rfl
@[simp] theorem setMode_rgAcc (d : Dir) (p : Bool) : (s.setMode d p).rgAcc = s.rgAcc := rfl
@[simp] theorem setMode_rgCnt (d : Dir) (p : Bool) : (s.setMode d p).rgCnt = s.rgCnt := rfl
@[simp] theorem setMode_rgDir (d : Dir) (p : Bool) : (s.setMode d p).rgDir = d := rfl
@[simp] theorem setMode_rgPad (d : Dir) (p : Bool) : (s.setMode d p).rgPad = p := rfl
@[simp] theorem setMode_b32Base (d : Dir) (p : Bool) : (s.setMode d p).b32Base = s.b32Base := rfl
@[simp] theorem setMode_pending (d : Dir) (p : Bool) : (s.setMode d p).pending = s.pending := rfl
@[simp] theorem setMode_responses (d : Dir) (p : Bool) : (s.setMode d p).responses = s.responses := rfl
@[simp] theorem setMode_hostFault (d : Dir) (p : Bool) : (s.setMode d p).hostFault = s.hostFault := rfl

@[simp] theorem setHostFault_acc (f : Option Fault) : (s.setHostFault f).acc = s.acc := rfl
@[simp] theorem setHostFault_cksum (f : Option Fault) : (s.setHostFault f).cksum = s.cksum := rfl
@[simp] theorem setHostFault_result (f : Option Fault) : (s.setHostFault f).result = s.result := rfl
@[simp] theorem setHostFault_err (f : Option Fault) : (s.setHostFault f).err = s.err := rfl
@[simp] theorem setHostFault_matchFlag (f : Option Fault) : (s.setHostFault f).matchFlag = s.matchFlag := rfl
@[simp] theorem setHostFault_errOp (f : Option Fault) : (s.setHostFault f).errOp = s.errOp := rfl
@[simp] theorem setHostFault_ovf (f : Option Fault) : (s.setHostFault f).ovf = s.ovf := rfl
@[simp] theorem setHostFault_rgAcc (f : Option Fault) : (s.setHostFault f).rgAcc = s.rgAcc := rfl
@[simp] theorem setHostFault_rgCnt (f : Option Fault) : (s.setHostFault f).rgCnt = s.rgCnt := rfl
@[simp] theorem setHostFault_rgDir (f : Option Fault) : (s.setHostFault f).rgDir = s.rgDir := rfl
@[simp] theorem setHostFault_rgPad (f : Option Fault) : (s.setHostFault f).rgPad = s.rgPad := rfl
@[simp] theorem setHostFault_b32Base (f : Option Fault) : (s.setHostFault f).b32Base = s.b32Base := rfl
@[simp] theorem setHostFault_pending (f : Option Fault) : (s.setHostFault f).pending = s.pending := rfl
@[simp] theorem setHostFault_responses (f : Option Fault) : (s.setHostFault f).responses = s.responses := rfl
@[simp] theorem setHostFault_hostFault (f : Option Fault) : (s.setHostFault f).hostFault = f := rfl

@[simp] theorem setPending_acc (l : List HostEvent) : (s.setPending l).acc = s.acc := rfl
@[simp] theorem setPending_cksum (l : List HostEvent) : (s.setPending l).cksum = s.cksum := rfl
@[simp] theorem setPending_result (l : List HostEvent) : (s.setPending l).result = s.result := rfl
@[simp] theorem setPending_err (l : List HostEvent) : (s.setPending l).err = s.err := rfl
@[simp] theorem setPending_matchFlag (l : List HostEvent) : (s.setPending l).matchFlag = s.matchFlag := rfl
@[simp] theorem setPending_errOp (l : List HostEvent) : (s.setPending l).errOp = s.errOp := rfl
@[simp] theorem setPending_ovf (l : List HostEvent) : (s.setPending l).ovf = s.ovf := rfl
@[simp] theorem setPending_rgAcc (l : List HostEvent) : (s.setPending l).rgAcc = s.rgAcc := rfl
@[simp] theorem setPending_rgCnt (l : List HostEvent) : (s.setPending l).rgCnt = s.rgCnt := rfl
@[simp] theorem setPending_rgDir (l : List HostEvent) : (s.setPending l).rgDir = s.rgDir := rfl
@[simp] theorem setPending_rgPad (l : List HostEvent) : (s.setPending l).rgPad = s.rgPad := rfl
@[simp] theorem setPending_b32Base (l : List HostEvent) : (s.setPending l).b32Base = s.b32Base := rfl
@[simp] theorem setPending_pending (l : List HostEvent) : (s.setPending l).pending = l := rfl
@[simp] theorem setPending_responses (l : List HostEvent) : (s.setPending l).responses = s.responses := rfl
@[simp] theorem setPending_hostFault (l : List HostEvent) : (s.setPending l).hostFault = s.hostFault := rfl

@[simp] theorem respond_acc (v : Reg) : (s.respond v).acc = s.acc := rfl
@[simp] theorem respond_cksum (v : Reg) : (s.respond v).cksum = s.cksum := rfl
@[simp] theorem respond_result (v : Reg) : (s.respond v).result = s.result := rfl
@[simp] theorem respond_err (v : Reg) : (s.respond v).err = s.err := rfl
@[simp] theorem respond_matchFlag (v : Reg) : (s.respond v).matchFlag = s.matchFlag := rfl
@[simp] theorem respond_errOp (v : Reg) : (s.respond v).errOp = s.errOp := rfl
@[simp] theorem respond_ovf (v : Reg) : (s.respond v).ovf = s.ovf := rfl
@[simp] theorem respond_rgAcc (v : Reg) : (s.respond v).rgAcc = s.rgAcc := rfl
@[simp] theorem respond_rgCnt (v : Reg) : (s.respond v).rgCnt = s.rgCnt := rfl
@[simp] theorem respond_rgDir (v : Reg) : (s.respond v).rgDir = s.rgDir := rfl
@[simp] theorem respond_rgPad (v : Reg) : (s.respond v).rgPad = s.rgPad := rfl
@[simp] theorem respond_b32Base (v : Reg) : (s.respond v).b32Base = s.b32Base := rfl
@[simp] theorem respond_pending (v : Reg) : (s.respond v).pending = s.pending := rfl
@[simp] theorem respond_responses (v : Reg) : (s.respond v).responses = v :: s.responses := rfl
@[simp] theorem respond_hostFault (v : Reg) : (s.respond v).hostFault = s.hostFault := rfl

end Sys2Proof.Machine.State
end

