-- ==== Sys2Proof/Laws/Ops.lean ====
section
/-! SUPPORT. What the shared operations do, field by field: recording an error, clearing the record, reset. -/

namespace Sys2Proof.Machine

variable (s : State) (e : ErrCode) (op : Byte)

@[simp] theorem noteHostFault_acc : (noteHostFault e s).acc = s.acc := by unfold noteHostFault; split <;> rfl
@[simp] theorem noteHostFault_cksum : (noteHostFault e s).cksum = s.cksum := by unfold noteHostFault; split <;> rfl
@[simp] theorem noteHostFault_result : (noteHostFault e s).result = s.result := by unfold noteHostFault; split <;> rfl
@[simp] theorem noteHostFault_err : (noteHostFault e s).err = s.err := by unfold noteHostFault; split <;> rfl
@[simp] theorem noteHostFault_matchFlag : (noteHostFault e s).matchFlag = s.matchFlag := by unfold noteHostFault; split <;> rfl
@[simp] theorem noteHostFault_errOp : (noteHostFault e s).errOp = s.errOp := by unfold noteHostFault; split <;> rfl
@[simp] theorem noteHostFault_ovf : (noteHostFault e s).ovf = s.ovf := by unfold noteHostFault; split <;> rfl
@[simp] theorem noteHostFault_rgAcc : (noteHostFault e s).rgAcc = s.rgAcc := by unfold noteHostFault; split <;> rfl
@[simp] theorem noteHostFault_rgCnt : (noteHostFault e s).rgCnt = s.rgCnt := by unfold noteHostFault; split <;> rfl
@[simp] theorem noteHostFault_rgDir : (noteHostFault e s).rgDir = s.rgDir := by unfold noteHostFault; split <;> rfl
@[simp] theorem noteHostFault_rgPad : (noteHostFault e s).rgPad = s.rgPad := by unfold noteHostFault; split <;> rfl
@[simp] theorem noteHostFault_b32Base : (noteHostFault e s).b32Base = s.b32Base := by unfold noteHostFault; split <;> rfl
@[simp] theorem noteHostFault_pending : (noteHostFault e s).pending = s.pending := by unfold noteHostFault; split <;> rfl
@[simp] theorem noteHostFault_responses : (noteHostFault e s).responses = s.responses := by unfold noteHostFault; split <;> rfl

/-- The note keeps the first class P error. -/
@[simp] theorem noteHostFault_hostFault : (noteHostFault e s).hostFault = s.hostFault.or e.hostFault := by
  unfold noteHostFault; split <;> simp [*]

@[simp] theorem raiseErr_err : (raiseErr e op s).err = if s.err = 0 then e.code else s.err := by
  unfold raiseErr; split <;> simp [*]

@[simp] theorem raiseErr_errOp : (raiseErr e op s).errOp = if s.err = 0 then op else s.errOp := by
  unfold raiseErr; split <;> simp [*]

@[simp] theorem raiseErr_ovf : (raiseErr e op s).ovf = if s.err = 0 then s.ovf else true := by
  unfold raiseErr; split <;> simp [*]

@[simp] theorem raiseErr_hostFault : (raiseErr e op s).hostFault = s.hostFault.or e.hostFault := by
  unfold raiseErr; split <;> simp [*]

@[simp] theorem raiseErr_acc : (raiseErr e op s).acc = s.acc := by unfold raiseErr; split <;> simp
@[simp] theorem raiseErr_cksum : (raiseErr e op s).cksum = s.cksum := by unfold raiseErr; split <;> simp
@[simp] theorem raiseErr_result : (raiseErr e op s).result = s.result := by unfold raiseErr; split <;> simp
@[simp] theorem raiseErr_matchFlag : (raiseErr e op s).matchFlag = s.matchFlag := by unfold raiseErr; split <;> simp
@[simp] theorem raiseErr_rgAcc : (raiseErr e op s).rgAcc = s.rgAcc := by unfold raiseErr; split <;> simp
@[simp] theorem raiseErr_rgCnt : (raiseErr e op s).rgCnt = s.rgCnt := by unfold raiseErr; split <;> simp
@[simp] theorem raiseErr_rgDir : (raiseErr e op s).rgDir = s.rgDir := by unfold raiseErr; split <;> simp
@[simp] theorem raiseErr_rgPad : (raiseErr e op s).rgPad = s.rgPad := by unfold raiseErr; split <;> simp
@[simp] theorem raiseErr_b32Base : (raiseErr e op s).b32Base = s.b32Base := by unfold raiseErr; split <;> simp
@[simp] theorem raiseErr_pending : (raiseErr e op s).pending = s.pending := by unfold raiseErr; split <;> simp
@[simp] theorem raiseErr_responses : (raiseErr e op s).responses = s.responses := by unfold raiseErr; split <;> simp

/-- An error writes the record and the note, and nothing else. -/
theorem raiseErr_eq : raiseErr e op s =
    { s with
      err := if s.err = 0 then e.code else s.err
      errOp := if s.err = 0 then op else s.errOp
      ovf := if s.err = 0 then s.ovf else true
      hostFault := s.hostFault.or e.hostFault } := by
  ext1 <;> simp

@[simp] theorem clearErr_acc : (clearErr s).acc = s.acc := rfl
@[simp] theorem clearErr_cksum : (clearErr s).cksum = s.cksum := rfl
@[simp] theorem clearErr_result : (clearErr s).result = s.result := rfl
@[simp] theorem clearErr_err : (clearErr s).err = 0 := rfl
@[simp] theorem clearErr_matchFlag : (clearErr s).matchFlag = s.matchFlag := rfl
@[simp] theorem clearErr_errOp : (clearErr s).errOp = 0 := rfl
@[simp] theorem clearErr_ovf : (clearErr s).ovf = false := rfl
@[simp] theorem clearErr_rgAcc : (clearErr s).rgAcc = s.rgAcc := rfl
@[simp] theorem clearErr_rgCnt : (clearErr s).rgCnt = s.rgCnt := rfl
@[simp] theorem clearErr_rgDir : (clearErr s).rgDir = s.rgDir := rfl
@[simp] theorem clearErr_rgPad : (clearErr s).rgPad = s.rgPad := rfl
@[simp] theorem clearErr_b32Base : (clearErr s).b32Base = s.b32Base := rfl
@[simp] theorem clearErr_pending : (clearErr s).pending = s.pending := rfl
@[simp] theorem clearErr_responses : (clearErr s).responses = s.responses := rfl
@[simp] theorem clearErr_hostFault : (clearErr s).hostFault = s.hostFault := rfl

@[simp] theorem resetCore_acc : (resetCore s).acc = 1 := rfl
@[simp] theorem resetCore_cksum : (resetCore s).cksum = 0 := rfl
@[simp] theorem resetCore_result : (resetCore s).result = 0 := rfl
@[simp] theorem resetCore_err : (resetCore s).err = 0 := rfl
@[simp] theorem resetCore_matchFlag : (resetCore s).matchFlag = false := rfl
@[simp] theorem resetCore_errOp : (resetCore s).errOp = 0 := rfl
@[simp] theorem resetCore_ovf : (resetCore s).ovf = false := rfl
@[simp] theorem resetCore_rgAcc : (resetCore s).rgAcc = 0 := rfl
@[simp] theorem resetCore_rgCnt : (resetCore s).rgCnt = 0 := rfl
@[simp] theorem resetCore_rgDir : (resetCore s).rgDir = .to5 := rfl
@[simp] theorem resetCore_rgPad : (resetCore s).rgPad = true := rfl
@[simp] theorem resetCore_b32Base : (resetCore s).b32Base = s.b32Base := rfl
@[simp] theorem resetCore_pending : (resetCore s).pending = s.pending := rfl
@[simp] theorem resetCore_responses : (resetCore s).responses = s.responses := rfl
@[simp] theorem resetCore_hostFault : (resetCore s).hostFault = s.hostFault := rfl

/-- The state after reset is a reset of itself, and no error code is 0. -/
@[simp] theorem resetCore_reset : resetCore State.reset = State.reset := rfl

@[simp] theorem code_ne_zero : e.code ≠ 0 := by cases e <;> decide

end Sys2Proof.Machine
end

