-- ==== Sys2Proof/Laws/Exec.lean ====
section
/-! SUPPORT. What each command answers, by the outcome of its operand check. -/

namespace Sys2Proof.Machine

variable {s : State} {imm : Byte}

theorem exec_rgPush_ok (h : imm.toNat < 2 ^ fromBits s.rgDir) : exec (.rgPush imm) s = .next (pushValue imm s) := by
  simp only [exec, execRgPush, streamOperand_ok h]

theorem exec_rgPush_bad (h : 2 ^ fromBits s.rgDir ≤ imm.toNat) :
    exec (.rgPush imm) s = .next (raiseErr .operandRange 0x11 s) := by
  simp only [exec, execRgPush, streamOperand_bad h]; rfl

theorem exec_rgFlush_pad (h : s.rgPad = true) : exec .rgFlush s = .next
    ((s.setStream 0 0).setResult (packOutputs (padOutputs s.rgDir s.rgAcc s.rgCnt.toNat))) := by
  simp only [exec, execRgFlush, h, if_true]

theorem exec_rgFlush_clean (h : s.rgPad = false) (hb : leftoverBad s.rgDir s.rgAcc s.rgCnt.toNat = false) :
    exec .rgFlush s = .next ((s.setStream 0 0).setResult 0) := by
  simp [exec, execRgFlush, h, hb]

theorem exec_rgFlush_bad (h : s.rgPad = false) (hb : leftoverBad s.rgDir s.rgAcc s.rgCnt.toNat = true) :
    exec .rgFlush s = .next (raiseErr .nonzeroPadding 0x12 ((s.setStream 0 0).setResult 0)) := by
  simp [exec, execRgFlush, h, hb, Opcode.byte]

theorem exec_pmFeed_ok (h : imm.toNat ≤ 31) : exec (.pmFeed imm) s = .next (feed (imm.setWidth 5) s) := by
  simp only [exec, execPmFeed, wordOperand_ok h]

theorem exec_pmFeed_bad (h : 31 < imm.toNat) :
    exec (.pmFeed imm) s = .next (raiseErr .operandRange 0x21 s) := by
  simp only [exec, execPmFeed, wordOperand_bad h]; rfl

theorem exec_pmHrpHi_ok (h : imm.toNat ≤ 127) :
    exec (.pmHrpHi imm) s = .next (feed ((imm >>> 5).setWidth 5) s) := by
  simp only [exec, execPmHrpHi, hrpHigh_ok h]

theorem exec_pmHrpHi_bad (h : 127 < imm.toNat) :
    exec (.pmHrpHi imm) s = .next (raiseErr .hrpChar 0x22 s) := by
  simp only [exec, execPmHrpHi, hrpHigh_bad h]; rfl

theorem exec_pmHrpLo_ok (h : imm.toNat ≤ 127) :
    exec (.pmHrpLo imm) s = .next (feed ((imm &&& 31).setWidth 5) s) := by
  simp only [exec, execPmHrpLo, hrpLow_ok h]

theorem exec_pmHrpLo_bad (h : 127 < imm.toNat) :
    exec (.pmHrpLo imm) s = .next (raiseErr .hrpChar 0x23 s) := by
  simp only [exec, execPmHrpLo, hrpLow_bad h]; rfl

theorem exec_ckWord_ok (h : imm.toNat ≤ 5) :
    exec (.ckWord imm) s = .next (s.setResult ((checksumWord s.cksum imm.toNat).setWidth 32)) := by
  simp only [exec, execCkWord, checksumIndex_ok h]

theorem exec_ckWord_bad (h : 5 < imm.toNat) :
    exec (.ckWord imm) s = .next (raiseErr .operandRange 0x25 s) := by
  simp only [exec, execCkWord, checksumIndex_bad h]; rfl

theorem exec_ckVerify_match (h : s.acc = checksumConst) :
    exec .ckVerify s = .next ((s.setMatch true).setResult 1) := by
  simp [exec, execCkVerify, h]

theorem exec_ckVerify_mismatch (h : s.acc ≠ checksumConst) :
    exec .ckVerify s = .next (raiseErr .checksumMismatch 0x26 ((s.setMatch false).setResult 0)) := by
  simp [exec, execCkVerify, h, Opcode.byte]

theorem exec_csEnc_ok (h : imm.toNat ≤ 31) :
    exec (.csEnc imm) s = .next (s.setResult ((charsetRom (imm.setWidth 5)).setWidth 32)) := by
  simp only [exec, execCsEnc, wordOperand_ok h]

theorem exec_csEnc_bad (h : 31 < imm.toNat) :
    exec (.csEnc imm) s = .next (raiseErr .operandRange 0x30 s) := by
  simp only [exec, execCsEnc, wordOperand_bad h]; rfl

theorem exec_csDec_ok (h : invRom imm ≠ invalidMark) :
    exec (.csDec imm) s = .next (s.setResult ((invRom imm).setWidth 32)) := by
  simp [exec, execCsDec, h]

theorem exec_csDec_bad (h : invRom imm = invalidMark) :
    exec (.csDec imm) s = .next (raiseErr .invalidChar 0x31 (s.setResult 0xFF)) := by
  simp [exec, execCsDec, h, Opcode.byte, invalidMark]

/-- No command stops, and none writes what is not the core's. -/
theorem exec_next (i : Instr) (s : State) : ∃ t, exec i s = .next t ∧
    t.b32Base = s.b32Base ∧ t.pending = s.pending ∧ t.responses = s.responses := by
  cases i <;> simp only [exec, execNop, execSoftReset, execClrErr, execRgInit, execRgPush, execRgFlush, execPmInit,
    execPmFeed, execPmHrpHi, execPmHrpLo, execCkFinal, execCkWord, execCkVerify, execCsEnc, execCsDec] <;>
    repeat' split
  all_goals refine ⟨_, rfl, ?_⟩
  all_goals simp [pushValue, feed]

end Sys2Proof.Machine
end

