-- ==== Sys2Proof/Laws/Window.lean ====
section
/-! SUPPORT. Which accesses are admitted, and what a step does with each kind of event. -/

namespace Sys2Proof.Machine

/-- An admitted access (20_memory.md R52), by its offset. -/
theorem admit_of_offset {base off : Nat} (h : off < 256) (h4 : off % 4 = 0) :
    admittedOffset base (base + off) 32 = .ok off := by
  simp [admittedOffset, h, h4]

/-- Only such accesses are admitted. -/
theorem offset_of_admit {base addr bits off : Nat} (h : admittedOffset base addr bits = .ok off) :
    bits = 32 ∧ addr = base + off ∧ off < 256 ∧ off % 4 = 0 := by
  unfold admittedOffset Config.accessBits Config.windowBytes Config.accessAlign at h
  split at h
  · cases h
  · split at h
    · cases h
    · split at h
      · cases h
      · injection h with h
        subst h
        omega

/-- `regRead` at the offset of a register reads it. -/
@[simp] theorem regRead_regOffset (r : RegName) (s : State) : regRead (regOffset r) s = readReg r s := by
  cases r <;> rfl

theorem regOffset_lt (r : RegName) : regOffset r < 256 ∧ regOffset r % 4 = 0 := by cases r <;> decide

/-- A write of `w` to `CMD` is `Execute(w)`. -/
theorem serve_cmdWrite (w : Reg) (s : State) : serve (cmdWrite s.b32Base w) s = execute w s := by
  simp only [serve, cmdWrite, Config.accessBits, admit_of_offset (regOffset_lt .cmd).1 (regOffset_lt .cmd).2]
  rfl

/-- A read of a named register returns it. -/
theorem serve_regAccess (r : RegName) (s : State) :
    serve (regAccess s.b32Base r) s = .next (s.respond (readReg r s)) := by
  simp only [serve, regAccess, Config.accessBits, admit_of_offset (regOffset_lt r).1 (regOffset_lt r).2,
    regRead_regOffset]

theorem execute_ok {w : Reg} {i : Instr} {s : State} (h : decode w = .ok i) : execute w s = exec i s := by
  simp [execute, h]

theorem execute_error {w : Reg} {r : Reject} {s : State} (h : decode w = .error r) :
    execute w s = .next (raiseErr .illegalCmd (opField w) s) := by
  simp [execute, h, execIllegal]

/-- Serving an event never stops with a fault; it leaves `pending` and the base address alone and answers at most one
read. -/
theorem serve_next {ev : HostEvent} {s t : State} (h : serve ev s = .next t) :
    t.b32Base = s.b32Base ∧ t.pending = s.pending ∧
      (t.responses = s.responses ∨ ∃ v, t.responses = v :: s.responses) := by
  have exec_keeps : ∀ i u, exec i s = .next u →
      u.b32Base = s.b32Base ∧ u.pending = s.pending ∧ u.responses = s.responses := by
    intro i u hu
    obtain ⟨u', hu', hk⟩ := exec_next i s
    rw [hu] at hu'
    injection hu' with hu'
    exact hu' ▸ hk
  cases ev with
  | reset =>
    injection h with h
    subst h
    simp
  | read addr bits =>
    simp only [serve] at h
    split at h
    · injection h with h
      subst h
      simp
    · cases h
  | write addr bits v =>
    simp only [serve] at h
    split at h
    · simp only [regWrite, execute] at h
      split at h
      · split at h
        · have := exec_keeps _ _ h
          simp [this]
        · injection h with h
          subst h
          simp
      · injection h with h
        subst h
        simp
    · cases h

/-- A step with an event to come serves it. -/
theorem step_cons {s : State} {ev : HostEvent} {rest : List HostEvent} (h : s.pending = ev :: rest) :
    step s = serve ev (s.setPending rest) := by
  simp [step, serveNext, h]

end Sys2Proof.Machine
end

