-- ==== Sys2Proof/Laws/HostProcedures.lean ====
section
/-! SUPPORT. Running a host procedure: what each part does, and going on. -/

namespace Sys2Proof.Machine

@[simp] theorem andThen_done {α β : Type} (a : α) (k : α → HostProc β) : andThen (.done a) k = k a := rfl

@[simp] theorem andThen_issue {α β : Type} (i : Instr) (rest : HostProc α) (k : α → HostProc β) :
    andThen (.issue i rest) k = .issue i (andThen rest k) := rfl

@[simp] theorem andThen_rd {α β : Type} (r : RegName) (rest : Reg → HostProc α) (k : α → HostProc β) :
    andThen (.rd r rest) k = .rd r fun v => andThen (rest v) k := rfl

@[simp] theorem runHost_done {α : Type} (a : α) (s : State) : runHost (.done a) s = .next (s, a) := rfl

/-- Issuing a command that its word decodes to is executing it. -/
theorem runHost_issue {α : Type} {i : Instr} {s t : State} (rest : HostProc α) (hd : decode (encode i) = .ok i)
    (he : exec i s = .next t) : runHost (.issue i rest) s = runHost rest t := by
  simp [runHost, serve_cmdWrite, execute_ok hd, he]

/-- A read tells the host the register's value. -/
theorem runHost_rd {α : Type} (r : RegName) (rest : Reg → HostProc α) (s : State) :
    runHost (.rd r rest) s = runHost (rest (readReg r s)) (s.respond (readReg r s)) := by
  simp [runHost, serve_regAccess]

/-- A procedure in two parts runs the first and then the second, from the state the first left. -/
theorem runHost_andThen {α β : Type} {first : HostProc α} {s t : State} {a : α} (k : α → HostProc β)
    (h : runHost first s = .next (t, a)) : runHost (andThen first k) s = runHost (k a) t := by
  induction first generalizing s with
  | done b => cases h; rfl
  | issue i rest ih =>
    simp only [runHost, andThen] at h ⊢
    cases hs : serve (cmdWrite s.b32Base (encode i)) s with
    | next s' => rw [hs] at h; exact ih h
    | fault f => rw [hs] at h; cases h
    | refused x => rw [hs] at h; cases h
  | rd r rest ih =>
    simp only [runHost_rd, andThen] at h ⊢
    exact ih _ h

/-- The parts of a procedure follow each other: their accesses and their reads are appended. -/
theorem follow_andThen {α β : Type} {base : Nat} {first : HostProc α} {k : α → HostProc β} {a : α} {b : β}
    {vs ws : List Reg} {evs evs' : List HostEvent} (h : follow base first vs = some (evs, a))
    (hk : follow base (k a) ws = some (evs', b)) :
    follow base (andThen first k) (vs ++ ws) = some (evs ++ evs', b) := by
  induction first generalizing vs evs with
  | done c => cases vs <;> simp_all [follow]
  | issue i rest ih =>
    simp only [follow, Option.map_eq_some_iff] at h
    obtain ⟨e, he, h⟩ := h
    cases h
    simp [follow, ih he]
  | rd r rest ih =>
    cases vs with
    | nil => simp [follow] at h
    | cons v vs =>
      simp only [follow, Option.map_eq_some_iff] at h
      obtain ⟨e, he, h⟩ := h
      cases h
      simp [follow, ih v he]

end Sys2Proof.Machine
end

