-- ==== Sys2Proof/Laws/PerInstr.lean ====
section
/-! SUPPORT. Facts about every command as syntax, one lemma per constructor. -/

/-- The encoding of a command matches its own row of 30_encoding.md R73. -/
def Sys2Proof.Laws.EncodingFits.Statement (i : Sys2Proof.Instr) : Prop :=
  Sys2Proof.encode i &&& i.opcode.mask = i.opcode.matchBits

namespace Sys2Proof.Laws.EncodingFits

theorem nop : Statement .nop := rfl
theorem softReset : Statement .softReset := rfl
theorem clrErr : Statement .clrErr := rfl
theorem rgInit (dir : Dir) (pad : Bool) : Statement (.rgInit dir pad) := by
  cases dir <;> cases pad <;> rfl

/-- Above `IMM` the encoding is the row's match. -/
theorem of_imm (op : Byte) (imm : Byte) : (op ++ 0#12 ++ 0#4 ++ imm : Reg) &&& 0xFFFFFF00 = op ++ 0#24 := by
  have h : (0xFFFFFF00 : Reg) = (BitVec.allOnes 8 ++ BitVec.allOnes 12 ++ BitVec.allOnes 4 ++ 0#8 : BitVec 32) := by
    decide
  rw [h, BitVec.and_append, BitVec.and_append, BitVec.and_append]
  simp only [BitVec.and_allOnes, BitVec.and_zero]
  rw [BitVec.append_assoc, BitVec.append_assoc]
  simp

theorem rgPush (imm : Byte) : Statement (.rgPush imm) := of_imm 0x11 imm
theorem rgFlush : Statement .rgFlush := rfl
theorem pmInit : Statement .pmInit := rfl
theorem pmFeed (imm : Byte) : Statement (.pmFeed imm) := of_imm 0x21 imm
theorem pmHrpHi (imm : Byte) : Statement (.pmHrpHi imm) := of_imm 0x22 imm
theorem pmHrpLo (imm : Byte) : Statement (.pmHrpLo imm) := of_imm 0x23 imm
theorem ckFinal : Statement .ckFinal := rfl
theorem ckWord (imm : Byte) : Statement (.ckWord imm) := of_imm 0x25 imm
theorem ckVerify : Statement .ckVerify := rfl
theorem csEnc (imm : Byte) : Statement (.csEnc imm) := of_imm 0x30 imm
theorem csDec (imm : Byte) : Statement (.csDec imm) := of_imm 0x31 imm

end Sys2Proof.Laws.EncodingFits
end

