-- ==== Sys2Proof/Laws/Polymod.lean ====
section
/-! SUPPORT. The step function of the polymod engine as an exclusive-or of its parts. -/

namespace Sys2Proof.Machine

/-- What `top` adds to the accumulator. -/
def feedback (top : Word) : Residue := xorSelected top genTable 0 0

/-- The loop adds the same whatever it starts from. -/
theorem xorSelected_eq (top : Word) (gs : List Residue) (i : Nat) (a : Residue) :
    xorSelected top gs i a = a ^^^ xorSelected top gs i 0 := by
  induction gs generalizing i a with
  | nil => simp [xorSelected]
  | cons g gs ih =>
    simp only [xorSelected]
    rw [ih (i + 1) (if top.getLsbD i then a ^^^ g else a), ih (i + 1) (if top.getLsbD i then 0 ^^^ g else 0)]
    split <;> simp [BitVec.xor_assoc]

/-- The loop is linear in the bits that select. -/
theorem xorSelected_xor (t u : Word) (gs : List Residue) (i : Nat) :
    xorSelected (t ^^^ u) gs i 0 = xorSelected t gs i 0 ^^^ xorSelected u gs i 0 := by
  induction gs generalizing i with
  | nil => simp [xorSelected]
  | cons g gs ih =>
    simp only [xorSelected]
    rw [xorSelected_eq (t ^^^ u), xorSelected_eq t, xorSelected_eq u, ih, BitVec.getLsbD_xor]
    have hg : ∀ x y : Residue, g ^^^ x ^^^ (g ^^^ y) = x ^^^ y := by
      intro x y
      rw [show g ^^^ x ^^^ (g ^^^ y) = g ^^^ g ^^^ (x ^^^ y) by ac_rfl]
      simp
    cases t.getLsbD i <;> cases u.getLsbD i <;> simp [hg] <;> ac_rfl

theorem feedback_xor (t u : Word) : feedback (t ^^^ u) = feedback t ^^^ feedback u := xorSelected_xor ..

/-- `PolyStep` as the shifted low part, the value and the feedback (42_checksum.md R131). -/
theorem polyStep_eq (acc : Residue) (v : Word) :
    polyStep acc v = ((acc &&& 0x1FFFFFF) <<< 5 ^^^ v.setWidth 30) ^^^ feedback (acc.extractLsb' 25 5) := by
  unfold polyStep
  rw [xorSelected_eq]
  rfl

/-- `n` feeds of 0 as a fold. -/
theorem feedZeros_eq (n : Nat) (a : Residue) : feedZeros n a = (List.replicate n 0).foldl polyStep a := by
  induction n generalizing a with
  | zero => rfl
  | succ n ih => simp [feedZeros, List.replicate_succ, ih]

/-- `polymod` of a longer sequence goes on from that of the shorter. -/
theorem polymod_append (xs ys : List Word) : polymod (xs ++ ys) = ys.foldl polyStep (polymod xs) := by
  simp [polymod]

end Sys2Proof.Machine
end

