-- ==== Sys2Proof/Laws/Regrouper.lean ====
section
/-! SUPPORT. The emit loop of the regrouper, the packing of its outputs, and runs of commands. -/

namespace Sys2Proof.Machine

theorem toBits_pos (d : Dir) : 0 < toBits d := by cases d <;> decide

/-- The loop ends when fewer bits than an output are left. -/
theorem emitLoop_done {d : Dir} {acc : RgAcc} {fuel cnt : Nat} (h : cnt < toBits d) :
    emitLoop d acc fuel cnt = ([], cnt) := by
  cases fuel <;> simp [emitLoop, h]

/-- One turn of the loop. -/
theorem emitLoop_turn {d : Dir} {acc : RgAcc} {fuel cnt : Nat} (h : toBits d ≤ cnt) :
    emitLoop d acc (fuel + 1) cnt =
      (outValue d (acc >>> (cnt - toBits d)) :: (emitLoop d acc fuel (cnt - toBits d)).1,
        (emitLoop d acc fuel (cnt - toBits d)).2) := by
  simp [emitLoop, Nat.not_lt.mpr h]

/-- With enough fuel the loop leaves the remainder and emits the quotient of the count (41_regrouper.md R103). -/
theorem emitLoop_counts (d : Dir) (acc : RgAcc) (fuel cnt : Nat) (h : cnt ≤ fuel) :
    (emitLoop d acc fuel cnt).2 = cnt % toBits d ∧ (emitLoop d acc fuel cnt).1.length = cnt / toBits d := by
  have hp := toBits_pos d
  induction fuel generalizing cnt with
  | zero =>
    obtain rfl : cnt = 0 := by omega
    simp [emitLoop]
  | succ fuel ih =>
    by_cases hc : cnt < toBits d
    · rw [emitLoop_done hc, Nat.mod_eq_of_lt hc, Nat.div_eq_of_lt hc]
      simp
    · rw [emitLoop_turn (by omega)]
      obtain ⟨h1, h2⟩ := ih (cnt - toBits d) (by omega)
      constructor
      · simp only [h1]
        exact (Nat.mod_eq_sub_mod (Nat.not_lt.mp hc)).symm
      · simp only [List.length_cons, h2]
        exact (Nat.div_eq_sub_div hp (Nat.not_lt.mp hc)).symm

/-- An output has at most `toBits` bits. -/
theorem outValue_lt (d : Dir) (v : RgAcc) : (outValue d v).toNat < 2 ^ toBits d := by
  cases d
  · simp only [outValue, lowMask, toBits, BitVec.toNat_setWidth, BitVec.toNat_and, BitVec.toNat_ofNat]
    have : v.toNat &&& (2 ^ 5 - 1) % 2 ^ 12 ≤ 31 := Nat.and_le_right
    omega
  · exact (outValue .to8 v).isLt

/-- The number `RESULT` holds after packing (41_regrouper.md R104). -/
theorem packed_toNat (n : BitVec 2) (b a : Byte) :
    (0#14 ++ n ++ b ++ a : BitVec 32).toNat = n.toNat * 2 ^ 16 + b.toNat * 2 ^ 8 + a.toNat := by
  have hn := n.isLt
  simp only [BitVec.toNat_append, BitVec.toNat_ofNat]
  rw [← Nat.shiftLeft_add_eq_or_of_lt a.isLt, ← Nat.shiftLeft_add_eq_or_of_lt b.isLt,
    ← Nat.shiftLeft_add_eq_or_of_lt hn]
  simp only [Nat.shiftLeft_eq]
  omega

/-- The fields of a packed `RESULT`. -/
theorem packed_fields (n : BitVec 2) (b a : Byte) :
    (0#14 ++ n ++ b ++ a : BitVec 32).extractLsb' 0 8 = a ∧
    (0#14 ++ n ++ b ++ a : BitVec 32).extractLsb' 8 8 = b ∧
    (0#14 ++ n ++ b ++ a : BitVec 32).extractLsb' 16 2 = n := by
  have hn := n.isLt
  have ha := a.isLt
  have hb := b.isLt
  refine ⟨BitVec.eq_of_toNat_eq ?_, BitVec.eq_of_toNat_eq ?_, BitVec.eq_of_toNat_eq ?_⟩ <;>
    rw [BitVec.extractLsb'_toNat, packed_toNat, Nat.shiftRight_eq_div_pow] <;> omega

/-- The host takes back what was packed (41_regrouper.md R104), up to two outputs. -/
theorem bothOutputs_pack {outs : List Byte} (h : outs.length ≤ 2) : bothOutputs (packOutputs outs) = outs := by
  unfold bothOutputs packOutputs
  rw [(packed_fields _ _ _).1, (packed_fields _ _ _).2.1, (packed_fields _ _ _).2.2]
  match outs, h with
  | [], _ => rfl
  | [a], _ => rfl
  | [a, b], _ => rfl

/-- A run of commands goes on from where its first part ended. -/
theorem runCmds_append {is js : List Instr} {s t : State} (h : runCmds is s = .next t) :
    runCmds (is ++ js) s = runCmds js t := by
  induction is generalizing s with
  | nil => injection h with h; subst h; rfl
  | cons i is ih =>
    simp only [runCmds, List.cons_append] at h ⊢
    cases he : exec i s with
    | next u => rw [he] at h; exact ih h
    | fault f => rw [he] at h; cases h
    | refused r => rw [he] at h; cases h

/-- A stream goes on from where its first part ended, and its outputs follow. -/
theorem runStream_append {is js : List Instr} {s t u : State} {xs ys : List Byte}
    (h : runStream is s = .next (t, xs)) (h' : runStream js t = .next (u, ys)) :
    runStream (is ++ js) s = .next (u, xs ++ ys) := by
  induction is generalizing s xs with
  | nil =>
    injection h with h
    injection h with h1 h2
    subst h1; subst h2
    exact h'
  | cons i is ih =>
    simp only [runStream, List.cons_append] at h ⊢
    cases he : exec i s with
    | next v =>
      rw [he] at h
      cases hr : runStream is v with
      | next p =>
        obtain ⟨w, zs⟩ := p
        simp only [hr] at h
        injection h with h
        injection h with h1 h2
        subst h1; subst h2
        simp [ih hr]
      | fault f => simp [hr] at h
      | refused r => simp [hr] at h
    | fault f => rw [he] at h; cases h
    | refused r => rw [he] at h; cases h

end Sys2Proof.Machine
end

