-- ==== Sys2Proof/Tests/Slice0.lean ====
section
/-! SUPPORT. Tests of one step each, with the values of 95_test_vectors.md and of the examples in the rules, the smoke
test of WellFormed, and for every statement with hypotheses a state and operands that meet them. -/

namespace Sys2Proof.Tests

open Sys2Proof.Machine Sys2Proof.Safety

/-- The outcome is a next state of which `p` holds. -/
def nextHas (o : Host.Outcome State Fault Refusal) (p : State → Bool) : Bool :=
  match o with
  | .next t => p t
  | .fault _ => false
  | .refused _ => false

/-- The step that runs the command word `w`. -/
def stepOn (s : State) (w : Nat) : Host.Outcome State Fault Refusal := step (s.withFetchWord 32 w)

/-- What the host then reads at an offset. -/
def reads (s : State) (w off : Nat) (v : Reg) : Bool := nextHas (stepOn s w) fun t => regRead off t == v

/-- A stream with the given pending bits. -/
def stream (d : Dir) (pad : Bool) (acc : RgAcc) (cnt : BitVec 4) : State :=
  (State.reset.setMode d pad).setStream acc cnt

/-- An accumulator. -/
def withAcc (a : Residue) : State := State.reset.setAcc a

/-! ### Decoding: words written out from 30_encoding.md R70 and R73, `OP RSVD F IMM` -/

theorem test_decode_control : decode 0b00000010_000000000000_0000_00000000 = .ok .clrErr := by decide

theorem test_decode_regrouper_init : decode 0b00010000_000000000000_0001_00000000 = .ok (.rgInit .to8 false) := by decide

theorem test_decode_regrouper_init_pad : decode 0b00010000_000000000000_0010_00000000 = .ok (.rgInit .to5 true) := by
  decide

theorem test_decode_regrouper_push : decode 0b00010001_000000000000_0000_10000001 = .ok (.rgPush 0x81) := by decide

theorem test_decode_polymod : decode 0b00100010_000000000000_0000_01110000 = .ok (.pmHrpHi 0x70) := by decide

theorem test_decode_checksum : decode 0b00100101_000000000000_0000_00000101 = .ok (.ckWord 5) := by decide

theorem test_decode_charset : decode 0b00110001_000000000000_0000_01110001 = .ok (.csDec 0x71) := by decide

theorem test_decodeTableWord : decodeTableWord 32 0x3000001F = some (.csEnc 31) := by decide

theorem test_encode_init : encode (.rgInit .to8 true) = 0x10000300 := by decide

/-- V-EN-03, V-EN-04, V-EN-05. -/
theorem test_reject_names :
    decode 0x03000000 = .error .reservedOpcode ∧ decode 0x21001000 = .error .reservedBits ∧
    decode 0x21000100 = .error .fixedBits := ⟨rfl, rfl, rfl⟩

/-! ### One step each -/

/-- R180. -/
theorem test_nop : nextHas (stepOn (withAcc 7) 0x00000000) (· == withAcc 7) = true := by decide

/-- V-CT-05. -/
theorem test_soft_reset : nextHas (stepOn ((withAcc 7).setErr 3 0x22) 0x01000000) (· == State.reset) = true := by decide

/-- R182, V-CT-04: `MATCH` survives. -/
theorem test_clr_err : reads (((State.reset.setErr 6 0x12).setOvf true).setMatch true) 0x02000000 0x004 0x10 = true := by
  decide

/-- V-EN-02 and V-CT-06. -/
theorem test_illegal : reads State.reset 0x00000001 0x004 0x00000001 = true ∧
    reads State.reset 0x02000001 0x004 0x00000201 = true := by decide

/-- V-EN-07. -/
theorem test_rg_init : reads (stream .to5 false 0xABC 3) 0x10000300 0x014 0x03000000 = true := by decide

/-- V-RG-31. -/
theorem test_rg_push : reads (stream .to5 true 0x0FF 3) 0x11000000 0x008 0x0002001C = true ∧
    reads (stream .to5 true 0x0FF 3) 0x11000000 0x014 0x02010F00 = true := by decide

/-- V-RG-34, V-RG-25. -/
theorem test_rg_push_word : reads (stream .to8 false 0x01F 5) 0x1100001C 0x008 0x000100FF = true ∧
    reads (stream .to8 false 0 0) 0x11000020 0x004 0x00001102 = true := by decide

/-- V-RG-32, V-RG-18. -/
theorem test_rg_flush_pad : reads (stream .to5 true 0xF00 1) 0x12000000 0x008 0x00010000 = true ∧
    reads (stream .to8 true 0x01F 5) 0x12000000 0x008 0x000100F8 = true := by decide

/-- V-RG-12 (a whole word left), V-RG-13 (two zero bits left). -/
theorem test_rg_flush_check : reads (stream .to8 false 0 5) 0x12000000 0x004 0x00001206 = true ∧
    reads (stream .to8 false 0 2) 0x12000000 0x004 0 = true := by decide

/-- R134. -/
theorem test_pm_init : reads (withAcc 0x0898AB40) 0x20000000 0x00C 1 = true := by decide

/-- V-PM-09, V-PM-13. -/
theorem test_pm_feed : reads (withAcc 0x3FFFFFFF) 0x2100001F 0x00C 0x2B326EB4 = true ∧
    reads State.reset 0x21000020 0x004 0x00002102 = true := by decide

/-- V-PM-10, V-PM-12. -/
theorem test_pm_hrp_hi : reads State.reset 0x22000070 0x00C 0x23 = true ∧
    reads State.reset 0x22000080 0x004 0x00002203 = true := by decide

/-- V-PM-11. -/
theorem test_pm_hrp_lo : reads State.reset 0x2300007F 0x00C 0x3F = true := by decide

/-- V-CK-01. -/
theorem test_ck_final : reads (withAcc 0x0898AB40) 0x24000000 0x010 0x3B3DB173 = true ∧
    reads (withAcc 0x0898AB40) 0x24000000 0x00C 0x10F581D0 = true := by decide

/-- R139, V-CK-05. -/
theorem test_ck_word : reads (State.reset.setCksum 0x3B3DB173) 0x25000003 0x008 12 = true ∧
    reads State.reset 0x25000006 0x004 0x00002502 = true := by decide

/-- V-CK-08, V-CK-06. -/
theorem test_ck_verify : reads (withAcc 0x2BC830A3) 0x26000000 0x004 0x10 = true ∧
    reads State.reset 0x26000000 0x004 0x00002605 = true := by decide

/-- V-CS-02, V-CS-04. -/
theorem test_cs_enc : reads State.reset 0x3000000F 0x008 0x30 = true ∧
    reads State.reset 0x30000020 0x004 0x00003002 = true := by decide

/-- V-CS-07, V-CS-12. -/
theorem test_cs_dec : reads State.reset 0x31000030 0x008 15 = true ∧
    reads State.reset 0x31000051 0x004 0x00003104 = true := by decide

/-- V-CT-02: the second error only sets `OVF`. -/
theorem test_second_error : reads (State.reset.setErr 2 0x21) 0x03000000 0x004 0x00012102 = true := by decide

/-! ### The window, ENCODE and DECODE, the assembler -/

/-- V-SRC-11. -/
theorem test_constants : regRead 0x02C State.reset = 0x3D4233DD ∧ regRead 0x034 State.reset = 0x2BC830A3 ∧
    regRead 0x018 State.reset = 0 := by decide

/-- R52: a byte access, and an access above the window, have no step. -/
theorem test_refused : serve (.read 4 8) State.reset = .refused .accessWidth ∧
    serve (.write 0x100 32 0) State.reset = .refused .outsideWindow ∧
    serve (.read 2 32) State.reset = .refused .misaligned := ⟨rfl, rfl, rfl⟩

/-- V-SRC-04, V-SRC-03: the last `1` of `penumbraXabc123`, and `penumbra1`, leave too little data. -/
theorem test_split : splitAtLast [0x61, 0x31, 0x62, 0x31, 0x63] = some ([0x61, 0x31, 0x62], [0x63]) := by decide

/-- V-CK-02: createChecksum of `a` and no payload. -/
theorem test_create_checksum : createChecksum [0x61] [] = [31, 0, 9, 19, 17, 29] := by decide

/-- V-SRC-01 with conflict C1. -/
theorem test_regroup : regroup 8 5 true [0xFF, 0x00] = ([31, 28, 0, 0], false) := by decide

/-- V-RG-11. -/
theorem test_regroup_bad : regroup 5 8 false [31, 29] = ([0xFF], true) := by decide

/-- R78, R79: text to words. -/
theorem test_assemble_text :
    (parseLine "PM_HRP_HI 'p'".toList).bind assemble = some (.command (.pmHrpHi 0x70)) ∧
    (parseLine "RG_INIT 5to8, 0".toList).bind assemble = some (.command (.rgInit .to8 false)) ∧
    (parseLine "PM_FEED 0x28".toList).bind assemble = some (.command (.pmFeed 40)) := by decide

theorem test_assemble_access :
    (parseLine "WR CMD, 256".toList).bind assemble = some (.write .cmd 256) ∧
    (parseLine "RD RGSTATE".toList).bind assemble = some (.read .rgstate) ∧
    (parseLine "RG_OPEN_ENC".toList).bind assemble = some (.command (.rgInit .to5 true)) := by decide

/-! ### WellFormed: each check refuses an ill-formed line -/

theorem test_imm_too_large : (AsmLine.cmd (.core .pmFeed) [.num 256]).wellFormed = false := by decide

theorem test_imm_in_range : (AsmLine.cmd (.core .pmFeed) [.num 255]).wellFormed = true := by decide

theorem test_operand_missing : (AsmLine.cmd (.core .ckWord) []).wellFormed = false := by decide

theorem test_operand_not_wanted : (AsmLine.cmd (.core .rgFlush) [.num 0]).wellFormed = false := by decide

theorem test_pseudo_operand : (AsmLine.cmd .pmSep [.num 0]).wellFormed = false := by decide

theorem test_pad_not_a_bit : (AsmLine.cmd (.core .rgInit) [.dir .to5, .num 2]).wellFormed = false := by decide

theorem test_dir_missing : (AsmLine.cmd (.core .rgInit) [.num 0, .num 1]).wellFormed = false := by decide

theorem test_value_too_large : (AsmLine.wr .cmd 0x100000000).wellFormed = false := by decide

/-! ### Witnesses: the hypotheses of each statement can be met -/

/-- An event put first. -/
def before (ev : HostEvent) : State := State.reset.setPending [ev]

theorem witness_EncodeInvertsDecode : decode 0x12000000 = .ok .rgFlush := by decide

theorem witness_DecodeSelectsTheOneTableRow :
    (0x210000FF : Reg) &&& Opcode.pmFeed.mask = Opcode.pmFeed.matchBits ∧
    ∀ o ∈ Opcode.all, (0xFF000000 : Reg) &&& o.mask ≠ o.matchBits := by decide

theorem witness_ReservedOpcodesRaiseIllegalCmd :
    opField 0x03000000 = 0x03 ∧ opField 0x0F000000 = 0x0F ∧ opField 0x13000000 = 0x13 ∧ opField 0x1F000000 = 0x1F ∧
    opField 0x27000000 = 0x27 ∧ opField 0x2F000000 = 0x2F ∧ opField 0x32000000 = 0x32 ∧ opField 0xFF000000 = 0xFF := by
  decide

theorem witness_MalformedWordsRaiseIllegalCmd :
    (Opcode.pmFeed.byte = opField 0x21001000 ∧ rsvdField 0x21001000 ≠ 0) ∧
    (Opcode.rgInit.byte = opField 0x10000400 ∧ fField 0x10000400 &&& 0b1100 ≠ 0) ∧
    (Opcode.rgInit.byte = opField 0x10000001 ∧ immField 0x10000001 ≠ 0) ∧
    (Opcode.pmFeed.byte = opField 0x21000100 ∧ fField 0x21000100 ≠ 0) ∧
    (Opcode.rgFlush.byte = opField 0x12000001 ∧ immField 0x12000001 ≠ 0) := by decide

theorem witness_StepRunsTheWrittenCommand :
    (before (cmdWrite 0 0x20000000)).pending = cmdWrite (before (cmdWrite 0 0x20000000)).b32Base 0x20000000 :: [] ∧
    decode 0x20000000 = .ok .pmInit ∧ decode 0xFF000000 = .error .reservedOpcode := ⟨rfl, rfl, rfl⟩

theorem witness_IdleCoreHoldsItsState : State.reset.pending = [] := rfl

/-- The last offset of the window; also for ReadsHaveNoSideEffect and OnlyCmdWritesHaveAnEffect. -/
theorem witness_WindowReadsFollowTheMap : 0x0FC < 256 ∧ 0x0FC % 4 = 0 := by decide

theorem witness_ReadsHaveNoSideEffect : 0x014 < 256 ∧ 0x014 % 4 = 0 := by decide

theorem witness_OnlyCmdWritesHaveAnEffect : 0x000 < 256 ∧ 0x000 % 4 = 0 ∧ 0x0FC < 256 ∧ 0x0FC % 4 = 0 := by decide

theorem witness_UnadmittedAccessesAreRefused :
    (∃ off, 0x0FC = State.reset.b32Base + off ∧ off % 4 = 0 ∧ off ≤ 0x0FC) ∧
    ¬ (8 = 32 ∧ ∃ off, 0 = State.reset.b32Base + off ∧ off % 4 = 0 ∧ off ≤ 0x0FC) ∧
    ¬ (32 = 32 ∧ ∃ off, 0x100 = State.reset.b32Base + off ∧ off % 4 = 0 ∧ off ≤ 0x0FC) := by
  refine ⟨⟨0x0FC, rfl, by decide, by decide⟩, fun h => absurd h.1 (by decide), ?_⟩
  rintro ⟨-, off, h, -, h'⟩
  simp only [State.reset] at h
  omega

theorem witness_StepServesOneEventInOrder : ∃ t, step (before (.read 4 32)) = .next t := ⟨_, rfl⟩

theorem witness_NopLeavesEveryRegister : (0x00FFFFFF : Reg).extractLsb' 24 8 = 0#8 ∧ (0x00FFFFFF : Reg) ≠ 0 := by decide

theorem witness_ClrErrClearsOnlyTheRecord :
    (RecordInv State.reset ∧ State.reset.err = 0) ∧
    ((0x02000001 : Reg).extractLsb' 24 8 = 2#8 ∧ (0x02000001 : Reg) ≠ 0x02000000) ∧
    (∃ t, exec .nop (State.reset.setErr 6 0x12) = .next t) ∧ (State.reset.setErr 6 0x12).err ≠ 0 ∧
    regRead 0x004 (State.reset.setErr 6 0x12) = 0x00001206 := by
  refine ⟨⟨?_, rfl⟩, by decide, ⟨_, rfl⟩, by decide, by decide⟩
  unfold RecordInv
  decide

theorem witness_RgInitOpensAStream :
    (0x10000400 : Reg).extractLsb' 24 8 = 0x10#8 ∧ (0x10000400 : Reg).extractLsb' 10 2 ≠ 0#2 ∧
    (0x10000001 : Reg).extractLsb' 0 8 ≠ 0#8 ∧ (0x10001000 : Reg).extractLsb' 12 12 ≠ 0#12 := by decide

theorem witness_RgPushOfAByteEmitsTheTopWords :
    (stream .to5 true 0xFFF 4).rgDir = .to5 ∧ (stream .to5 true 0xFFF 4).rgCnt.toNat ≤ 4 := by decide

theorem witness_RgPushOfAWordEmitsTheTopByte :
    (stream .to8 false 0xFFF 7).rgDir = .to8 ∧ (stream .to8 false 0xFFF 7).rgCnt.toNat ≤ 7 ∧
    (31#8).toNat ≤ 31 ∧ 31 < (32#8).toNat := by decide

theorem witness_RgFlushPadsTheLeftover :
    (stream .to8 true 0x07F 7).rgPad = true ∧ StreamInv (stream .to8 true 0x07F 7) := by
  refine ⟨rfl, ?_⟩
  unfold StreamInv
  decide

theorem witness_RgFlushChecksTheLeftover :
    (stream .to8 false 0 4).rgPad = false ∧
    ¬ (fromBits (stream .to8 false 0 4).rgDir ≤ (stream .to8 false 0 4).rgCnt.toNat ∨
      (stream .to8 false 0 4).rgAcc.toNat % 2 ^ (stream .to8 false 0 4).rgCnt.toNat ≠ 0) ∧
    fromBits (stream .to8 false 0 5).rgDir ≤ (stream .to8 false 0 5).rgCnt.toNat ∧
    (stream .to8 false 1 1).rgAcc.toNat % 2 ^ (stream .to8 false 1 1).rgCnt.toNat ≠ 0 := by decide

theorem witness_PmInitStartsASequence : (withAcc 0x0898AB40).acc = 0x0898AB40 := rfl

/-- Also for CsEncMapsAWordToItsCharacter. -/
theorem witness_PmFeedFeedsOneWord :
    (31#8).toNat ≤ 31 ∧ 31 < (32#8).toNat ∧ (withAcc 1).acc = 1 ∧ (withAcc 0x02000000).acc = 0x02000000 := by decide

theorem witness_PmHrpHiFeedsTheHighPart : (127#8).toNat ≤ 127 ∧ 127 < (128#8).toNat ∧ (withAcc 1).acc = 1 := by decide

theorem witness_PmHrpLoFeedsTheLowPart : (0#8).toNat ≤ 127 ∧ 127 < (255#8).toNat ∧ (withAcc 1).acc = 1 := by decide

theorem witness_CkFinalCompletesAChecksum : (withAcc 0x0898AB40).acc = 0x0898AB40 := rfl

theorem witness_CkWordExtractsOneWord :
    (5#8).toNat ≤ 5 ∧ 5 < (6#8).toNat ∧ (State.reset.setCksum 0x3B3DB173).cksum = 0x3B3DB173 := by decide

theorem witness_CkVerifyComparesTheResidue :
    (withAcc 0x2bc830a3).acc = 0x2bc830a3 ∧ State.reset.acc ≠ 0x2bc830a3 ∧
    (∃ t u, exec .ckVerify State.reset = .next t ∧ exec .ckVerify t = .next u) ∧
    (∃ t u, exec .pmInit (withAcc 0x2bc830a3) = .next t ∧ exec .ckVerify t = .next u) :=
  ⟨rfl, by decide, ⟨_, _, rfl, rfl⟩, ⟨_, _, rfl, rfl⟩⟩

theorem witness_AppendedChecksumVerifies :
    ∃ t, exec .ckFinal (withAcc 0x0898AB40) = .next t ∧ (withAcc 0x0898AB40).acc = (withAcc 0x0898AB40).acc :=
  ⟨_, rfl, rfl⟩

/-- Also for VerifyChecksumSequenceIsCorrect. -/
theorem witness_CreateChecksumSequenceIsCorrect : ∀ c ∈ [0, 0x61, 127], c ≤ 127 := by decide

theorem witness_VerifyChecksumSequenceIsCorrect : ∀ c ∈ [0x70, 127], c ≤ 127 := by decide

theorem witness_CsEncMapsAWordToItsCharacter : (31#8).toNat ≤ 31 ∧ 31 < (255#8).toNat := by decide

theorem witness_CsDecMapsACharacterToItsWord : (0x6C : Byte) ∈ charsetTable ∧ (0x31 : Byte) ∉ charsetTable ∧
    (0x41 ≤ (0x5A : Byte) ∧ (0x5A : Byte) ≤ 0x5A) ∧ (0x80 : Byte) ≤ 0xFF := by decide

theorem witness_CharsetIsABijection : invRom 0x6C ≠ 0xFF := by decide

theorem witness_InvRomHoldsTheListedEntries : charsetRom 31 = 0x6c ∧ (0x31 : Byte) ∉
    ([0x30, 0x32, 0x33, 0x34, 0x35, 0x36, 0x37, 0x38, 0x39, 0x61, 0x63, 0x64, 0x65, 0x66, 0x67, 0x68] ++
     [0x6a, 0x6b, 0x6c, 0x6d, 0x6e, 0x70, 0x71, 0x72, 0x73, 0x74, 0x75, 0x76, 0x77, 0x78, 0x79, 0x7a] : List Byte) := by
  decide

theorem witness_ClassPErrorsHaveNoOtherEffect :
    classPError (.rgPush 32) (stream .to8 false 0 0) = some 2 ∧ classPError (.pmFeed 32) State.reset = some 2 ∧
    classPError (.ckWord 6) State.reset = some 2 ∧ classPError (.csEnc 32) State.reset = some 2 ∧
    classPError (.pmHrpHi 128) State.reset = some 3 ∧ classPError (.pmHrpLo 128) State.reset = some 3 ∧
    State.reset.hostFault = none ∧
    (classPError .ckFinal State.reset = none ∧ ∃ t, exec .ckFinal State.reset = .next t) ∧
    decode 0x03000000 = .error .reservedOpcode ∧ decode 0xFF000000 = .error .reservedOpcode ∧
    decode 0x00800000 = .error .reservedBits ∧ decode 0x26000001 = .error .fixedBits :=
  ⟨rfl, rfl, rfl, rfl, rfl, rfl, rfl, ⟨rfl, _, rfl⟩, rfl, rfl, rfl, rfl⟩

/-- 60_exceptions.md R236 for `ILLEGAL_CMD`, also when an error of class D is recorded already. -/
theorem test_illegal_is_noted :
    nextHas (execute 0x03000000 (State.reset.setErr 4 0x31)) (fun t =>
      t.hostFault == some .illegalCmd && t.err == 4 && t.ovf) = true := by decide

theorem witness_RecordedErrorIsKept :
    (∃ t, exec (.pmFeed 40) ((State.reset.setErr 2 0x21).setOvf true) = .next t) ∧
    ((State.reset.setErr 2 0x21).setOvf true).err ≠ 0 ∧ ((State.reset.setErr 2 0x21).setOvf true).ovf = true :=
  ⟨⟨_, rfl⟩, by decide, rfl⟩

theorem witness_HostFaultIsNeverCleared :
    ∃ t, step ((before .reset).setHostFault (some .hrpChar)) = .next t ∧
      ((before .reset).setHostFault (some .hrpChar)).hostFault = some .hrpChar := ⟨_, rfl, rfl⟩

theorem witness_CommandsRaiseOnlyTheirErrors :
    (∃ t, exec .ckVerify State.reset = .next t ∧ State.reset.err = 0) ∧
    (∃ t, exec .pmInit (State.reset.setOvf true) = .next t ∧ errorsOf Instr.pmInit.opcode = [] ∧ t.ovf = true) :=
  ⟨⟨_, rfl, rfl⟩, ⟨_, rfl, rfl, rfl⟩⟩

theorem witness_OnlyListedCommandsWriteARegister :
    nextHas (exec .ckFinal State.reset) (fun t =>
      t.acc != State.reset.acc && t.cksum != State.reset.cksum && t.result != State.reset.result) = true ∧
    nextHas (exec .ckVerify (withAcc 0x2bc830a3)) (·.matchFlag != (withAcc 0x2bc830a3).matchFlag) = true ∧
    nextHas (exec (.rgInit .to8 false) State.reset) (fun t => t.rgDir != .to5 && t.rgPad != true) = true ∧
    nextHas (exec (.rgPush 0xFF) State.reset) (fun t => t.rgAcc != 0 && t.rgCnt != 0) = true := by decide

theorem witness_StepKeepsTheCoreInvariant :
    CoreInv (before (cmdWrite 0 0x110000FF)) ∧ ∃ t, step (before (cmdWrite 0 0x110000FF)) = .next t := by
  refine ⟨?_, ⟨_, rfl⟩⟩
  unfold CoreInv StreamInv RecordInv
  decide

theorem witness_RegrouperAndChecksumCommandsCommute :
    (Instr.rgPush 0xFF).opcode ∈ regrouperOps ∧ Instr.ckVerify.opcode ∈ checksumOps ∧
    ∃ a ab b ba, exec (.rgPush 0xFF) State.reset = .next a ∧ exec .ckVerify a = .next ab ∧
      exec .ckVerify State.reset = .next b ∧ exec (.rgPush 0xFF) b = .next ba :=
  ⟨by decide, by decide, _, _, _, _, rfl, rfl, rfl, rfl⟩

theorem witness_StreamComputesRegroup :
    (∀ v ∈ [0xFF#8, 0x00#8], v.toNat < 2 ^ fromBits .to5) ∧ (∀ v ∈ [31#8, 0#8], v.toNat < 2 ^ fromBits .to8) ∧
    (regroup 5 8 false [31, 28]).2 = false ∧ (regroup 5 8 false [31, 29]).2 = true ∧
    (regroup 8 5 false [0xFF]).2 = true := by decide

theorem witness_StreamKeepsTheBitstream :
    (∀ v ∈ [0xFF#8], v.toNat < 2 ^ fromBits .to5) ∧
    ∃ s' t outs, exec (.rgInit .to5 true) State.reset = .next s' ∧ runStream (streamCmds [0xFF#8]) s' = .next (t, outs) :=
  ⟨by decide, _, _, _, rfl, rfl⟩

theorem witness_EncodeComputesPliEncode :
    ([0x61] : List Nat) ≠ [] ∧ (∀ c ∈ [0x61, 127], c ≤ 127) ∧ (∃ c ∈ [0x70, 128], 127 < c) := by decide

theorem witness_DecodeOfEncodeReturnsTheInput : ([0x61] : List Nat) ≠ [] ∧ ∀ c ∈ [0x61], c ≤ 127 := by decide

theorem witness_HostProceduresAreRunsOfSteps : State.reset.pending = [] := rfl

/-- ENCODE of V-HP-09, and DECODE of a string that fails at its first data character: the accesses, by hand from R192
and R200. -/
theorem test_accesses :
    encodeAccesses 0 [] [1] = [] ∧
    decodeAccesses 0x40 [0x61, 0x31, 0x62, 0x62, 0x62, 0x62, 0x62, 0x62] =
      [.write 0x40 32 0x02000000, .write 0x40 32 0x31000062, .read 0x48 32] := by decide

/-- ENCODE of `a` and no bytes (R192): the accesses up to `CK_FINAL`, by hand. -/
theorem test_encode_accesses :
    (encodeAccesses 0 [0x61] []).take 9 =
      [.write 0 32 0x02000000, .write 0 32 0x10000200, .write 0 32 0x12000000, .read 8 32] ++
      [.write 0 32 0x20000000, .write 0 32 0x22000061, .write 0 32 0x21000000, .write 0 32 0x23000061,
       .write 0 32 0x24000000] := by decide

theorem witness_AssemblerAcceptsTheWellFormedLines :
    Opcode.pmFeed.shape = .imm ∧ 255 ≤ 255 ∧ Opcode.nop.shape = .none ∧
    assemble (.cmd (.core .rgInit) [.dir .to8, .num 1]) = some (.command (.rgInit .to8 true)) ∧
    assemble (.cmd (.core .nop) []) = some (.command .nop) ∧ 4294967295 < 2 ^ 32 := by decide

end Sys2Proof.Tests
end

/-! SUPPORT. The proof of O58: the round trip of the encoder, commands and the events still to come, the run of a host
procedure as accesses, then the runs of each part of ENCODE and DECODE. -/

namespace Sys2Proof

/-- The field `IMM` of a word put together from its fields (R70). -/
theorem immField_word (op imm : Byte) (f : BitVec 4) : immField (op ++ 0#12 ++ f ++ imm : Reg) = imm := by
  unfold immField
  rw [BitVec.extractLsb'_append_eq_right]

/-- A row builds the command back from the command's own word (R70, R73). -/
theorem build_encode (i : Instr) : i.opcode.build (encode i) = i := by
  cases i with
  | rgInit dir pad => cases dir <;> cases pad <;> rfl
  | rgPush imm => exact congrArg Instr.rgPush (immField_word 0x11 imm 0)
  | pmFeed imm => exact congrArg Instr.pmFeed (immField_word 0x21 imm 0)
  | pmHrpHi imm => exact congrArg Instr.pmHrpHi (immField_word 0x22 imm 0)
  | pmHrpLo imm => exact congrArg Instr.pmHrpLo (immField_word 0x23 imm 0)
  | ckWord imm => exact congrArg Instr.ckWord (immField_word 0x25 imm 0)
  | csEnc imm => exact congrArg Instr.csEnc (immField_word 0x30 imm 0)
  | csDec imm => exact congrArg Instr.csDec (immField_word 0x31 imm 0)
  | nop | softReset | clrErr | rgFlush | pmInit | ckFinal | ckVerify => rfl

open Laws.EncodingFits in
/-- The word of a command matches the command's row. -/
theorem encode_matches (i : Instr) : encode i &&& i.opcode.mask = i.opcode.matchBits := by
  cases i with
  | nop => exact nop
  | softReset => exact softReset
  | clrErr => exact clrErr
  | rgInit dir pad => exact rgInit dir pad
  | rgPush imm => exact rgPush imm
  | rgFlush => exact rgFlush
  | pmInit => exact pmInit
  | pmFeed imm => exact pmFeed imm
  | pmHrpHi imm => exact pmHrpHi imm
  | pmHrpLo imm => exact pmHrpLo imm
  | ckFinal => exact ckFinal
  | ckWord imm => exact ckWord imm
  | ckVerify => exact ckVerify
  | csEnc imm => exact csEnc imm
  | csDec imm => exact csDec imm

/-- Decoding the word of a command gives the command. -/
@[simp] theorem decode_encode (i : Instr) : decode (encode i) = .ok i :=
  decode_ok_iff.mpr ⟨i.opcode, encode_matches i, build_encode i⟩

end Sys2Proof

namespace Sys2Proof.Machine

/-! ### Commands and the events still to come -/

section SetPending

variable (s : State) (evs : List HostEvent)

@[simp] theorem State.setResult_setPending (v : Reg) :
    (s.setPending evs).setResult v = (s.setResult v).setPending evs := rfl

@[simp] theorem State.setMatch_setPending (b : Bool) :
    (s.setPending evs).setMatch b = (s.setMatch b).setPending evs := rfl

@[simp] theorem State.setStream_setPending (acc : RgAcc) (cnt : BitVec 4) :
    (s.setPending evs).setStream acc cnt = (s.setStream acc cnt).setPending evs := rfl

@[simp] theorem feed_setPending (v : Word) : feed v (s.setPending evs) = (feed v s).setPending evs := rfl

@[simp] theorem pushValue_setPending (v : Byte) :
    pushValue v (s.setPending evs) = (pushValue v s).setPending evs := rfl

@[simp] theorem raiseErr_setPending (e : ErrCode) (op : Byte) :
    raiseErr e op (s.setPending evs) = (raiseErr e op s).setPending evs := by
  simp only [raiseErr_eq]; rfl

end SetPending

/-- A command neither reads nor writes what is still to come. -/
theorem exec_setPending {i : Instr} {s t : State} (h : exec i s = .next t) (evs : List HostEvent) :
    exec i (s.setPending evs) = .next (t.setPending evs) := by
  cases i with
  | nop | softReset | clrErr | rgInit | pmInit | ckFinal => cases h; rfl
  | rgPush | pmFeed | pmHrpHi | pmHrpLo | ckWord | csEnc =>
    simp only [exec, execRgPush, execPmFeed, execPmHrpHi, execPmHrpLo, execCkWord, execCsEnc,
      State.setPending_rgDir, State.setPending_cksum] at h ⊢
    split at h <;> cases h <;> simp
  | csDec | ckVerify =>
    simp only [exec, execCsDec, execCkVerify] at h ⊢
    split at h <;> cases h <;> simp [*]
  | rgFlush =>
    simp only [exec, execRgFlush] at h ⊢
    split at h
    · cases h; simp [*]
    · split at h <;> cases h <;> simp [*]

/-! ### Procedures in parts -/

theorem andThen_assoc {α β γ : Type} (m : HostProc α) (k : α → HostProc β) (l : β → HostProc γ) :
    andThen (andThen m k) l = andThen m fun a => andThen (k a) l := by
  induction m with
  | done a => rfl
  | issue i rest ih => exact congrArg _ ih
  | rd r rest ih => exact congrArg _ (funext ih)

theorem andThen_done_right {α : Type} (m : HostProc α) : andThen m .done = m := by
  induction m with
  | done a => rfl
  | issue i rest ih => exact congrArg _ ih
  | rd r rest ih => exact congrArg _ (funext ih)

theorem issueReading_append (is js : List Instr) : issueReading (is ++ js) =
    andThen (issueReading is) fun rs => andThen (issueReading js) fun rs' => .done (rs ++ rs') := by
  induction is with
  | nil => exact (andThen_done_right _).symm
  | cons i is ih => simp [issueReading, ih, andThen_assoc]

/-! ### The run of a procedure -/

/-- The run of a host procedure from `s`: `Runs base m s evs a t` says that `m` makes the accesses `evs` of the window at
`base`, in order, returns `a` and leaves the machine in `t`. -/
inductive Runs (base : Nat) {α : Type} : HostProc α → State → List HostEvent → α → State → Prop
  | done (a : α) (s : State) : Runs base (.done a) s [] a s
  | issue {i : Instr} {rest : HostProc α} {s u t : State} {evs : List HostEvent} {a : α}
      (he : exec i s = .next u) (hr : Runs base rest u evs a t) :
      Runs base (.issue i rest) s (cmdWrite base (encode i) :: evs) a t
  | rd {r : RegName} {rest : Reg → HostProc α} {s t : State} {evs : List HostEvent} {a : α}
      (hr : Runs base (rest (readReg r s)) (s.respond (readReg r s)) evs a t) :
      Runs base (.rd r rest) s (regAccess base r :: evs) a t

/-- What a command leaves to the host and the platform. -/
theorem exec_keeps {i : Instr} {s t : State} (h : exec i s = .next t) :
    t.b32Base = s.b32Base ∧ t.pending = s.pending ∧ t.responses = s.responses := by
  obtain ⟨t', h', hk⟩ := exec_next i s
  cases h.symm.trans h'
  exact hk

/-- A step serves the first event to come; the run goes on with the others. -/
theorem core_run_cons {ev : HostEvent} {s u : State} (evs : List HostEvent)
    (h : serve ev (s.setPending evs) = .next (u.setPending evs)) (n : Nat) :
    core.run (n + 1) (s.setPending (ev :: evs)) = core.run n (u.setPending evs) := by
  have hs : core.step (s.setPending (ev :: evs)) = .next (u.setPending evs) := h
  simp only [Host.Core.run, hs]

namespace Runs

variable {α β : Type} {base : Nat} {m : HostProc α} {s t : State} {evs : List HostEvent} {a : α}

/-- The second part runs from where the first ended, and its accesses follow. -/
theorem andThen {k : α → HostProc β} {u : State} {evs' : List HostEvent} {b : β} (h : Runs base m s evs a t)
    (hk : Runs base (k a) t evs' b u) : Runs base (andThen m k) s (evs ++ evs') b u := by
  induction h with
  | done a s => exact hk
  | issue he _ ih => exact .issue he (ih hk)
  | rd _ ih => exact .rd (ih hk)

/-- Working out the result from what a procedure returned takes no access. -/
theorem map (h : Runs base m s evs a t) (g : α → β) :
    Runs base (Machine.andThen m fun a => .done (g a)) s evs (g a) t := by
  simpa using h.andThen (k := fun a => .done (g a)) (.done (g a) t)

/-- `Runs` agrees with `runHost`. -/
theorem runHost_eq (h : Runs base m s evs a t) : runHost m s = .next (t, a) := by
  induction h with
  | done a s => rfl
  | issue he _ ih => rw [runHost_issue _ (decode_encode _) he, ih]
  | rd _ ih => rw [runHost_rd, ih]

/-- A run leaves what is still to come. -/
theorem pending_eq (h : Runs base m s evs a t) : t.pending = s.pending := by
  induction h with
  | done a s => rfl
  | issue he _ ih =>
    obtain ⟨-, hpending, -⟩ := exec_keeps he
    rw [ih, hpending]
  | rd _ ih => exact ih

/-- Following the procedure over the values its reads put on the responses gives its accesses and its result. -/
theorem follow_reads (h : Runs base m s evs a t) :
    ∃ reads, t.responses = reads.reverse ++ s.responses ∧ follow base m reads = some (evs, a) := by
  induction h with
  | done a s => exact ⟨[], rfl, rfl⟩
  | issue he _ ih =>
    obtain ⟨reads, hres, hf⟩ := ih
    obtain ⟨-, -, hkept⟩ := exec_keeps he
    exact ⟨reads, by rw [hres, hkept], by simp [follow, hf]⟩
  | @rd r _ s _ _ _ _ ih =>
    obtain ⟨reads, hres, hf⟩ := ih
    exact ⟨readReg r s :: reads, by simp [hres], by simp [follow, hf]⟩

/-- The machine's own steps over the accesses end in the same state. -/
theorem core_run (h : Runs base m s evs a t) (hb : s.b32Base = base) :
    core.run evs.length (s.setPending evs) = .next (t.setPending []) := by
  induction h with
  | done a s => rfl
  | @issue i _ s u _ evs _ he _ ih =>
    have hserve : serve (cmdWrite base (encode i)) (s.setPending evs) = .next (u.setPending evs) := by
      subst hb
      exact (serve_cmdWrite _ (s.setPending evs)).trans
        ((execute_ok (decode_encode i)).trans (exec_setPending he evs))
    obtain ⟨hbase, -, -⟩ := exec_keeps he
    exact (core_run_cons evs hserve _).trans (ih (hbase.trans hb))
  | @rd r _ s _ evs _ _ ih =>
    have hserve : serve (regAccess base r) (s.setPending evs) =
        .next ((s.respond (readReg r s)).setPending evs) := by
      subst hb
      rw [← State.setPending_b32Base s evs, serve_regAccess]
      cases r <;> rfl
    exact (core_run_cons evs hserve _).trans (ih hb)

/-- Commands issued in order run as `runCmds` runs them. -/
theorem issueAll {is : List Instr} (h : runCmds is s = .next t) :
    Runs base (issueAll is) s (issues base is) () t := by
  induction is generalizing s with
  | nil => cases h; exact .done () _
  | cons i is ih =>
    obtain ⟨u, he, -⟩ := exec_next i s
    simp only [runCmds, he] at h
    exact .issue he (ih h)

/-- A command with the read of `RESULT` after it, and then the others. -/
theorem issueReading_cons {i : Instr} {is : List Instr} {u : State} {rs : List Reg} (he : exec i s = .next u)
    (h : Runs base (issueReading is) (u.respond u.result) evs rs t) :
    Runs base (issueReading (i :: is)) s (cmdWrite base (encode i) :: regAccess base .result :: evs)
      (u.result :: rs) t :=
  .issue he (.rd (h.map (u.result :: ·)))

/-- Commands with reads run one part after the other. -/
theorem issueReading_append {is js : List Instr} {u : State} {rs rs' : List Reg} {evs' : List HostEvent}
    (h : Runs base (issueReading is) s evs rs t) (h' : Runs base (issueReading js) t evs' rs' u) :
    Runs base (issueReading (is ++ js)) s (evs ++ evs') (rs ++ rs') u := by
  rw [Machine.issueReading_append]
  exact h.andThen (h'.map (rs ++ ·))

end Runs

/-- Commands with a read of `RESULT` after each make the same accesses whatever they do. -/
theorem issueReading_runs (base : Nat) (is : List Instr) (s : State) :
    ∃ rs t, Runs base (issueReading is) s (issuesReading base is) rs t := by
  induction is generalizing s with
  | nil => exact ⟨_, _, .done [] s⟩
  | cons i is ih =>
    obtain ⟨u, he, -⟩ := exec_next i s
    obtain ⟨rs, t, h⟩ := ih (u.respond u.result)
    exact ⟨_, _, .issueReading_cons he h⟩

/-- Commands that keep `I` and leave `f x` in `RESULT` give the host these values. -/
theorem issueReading_map_runs {base : Nat} {β : Type} {cmd : β → Instr} {f : β → Reg} {I : State → Prop} {xs : List β}
    (hcmd : ∀ x ∈ xs, ∀ s, I s → ∃ u, exec (cmd x) s = .next u ∧ u.result = f x ∧ I (u.respond u.result))
    {s : State} (hs : I s) :
    ∃ t, Runs base (issueReading (xs.map cmd)) s (issuesReading base (xs.map cmd)) (xs.map f) t ∧ I t := by
  induction xs generalizing s with
  | nil => exact ⟨s, .done [] s, hs⟩
  | cons x xs ih =>
    obtain ⟨u, he, hres, hu⟩ := hcmd x List.mem_cons_self s hs
    obtain ⟨t, h, ht⟩ := ih (fun y hy => hcmd y (List.mem_cons_of_mem x hy)) hu
    have hrun := h.issueReading_cons he
    rw [hres] at hrun
    exact ⟨t, hrun, ht⟩

theorem issuesReading_append (base : Nat) (is js : List Instr) :
    issuesReading base (is ++ js) = issuesReading base is ++ issuesReading base js :=
  List.flatMap_append

/-- A choice of what to return takes no access. -/
theorem Runs.ite_done {α : Type} (base : Nat) (c : Prop) [Decidable c] (a b : α) (s : State) :
    Runs base (if c then .done a else .done b) s [] (if c then a else b) s := by
  split <;> exact .done _ s

/-! ### The polymod engine -/

@[simp] theorem toNat_wordImm (w : Word) : (wordImm w).toNat = w.toNat :=
  BitVec.toNat_setWidth_of_le (by decide)

theorem wordImm_le (w : Word) : (wordImm w).toNat ≤ 31 := by
  rw [toNat_wordImm]; exact Nat.le_of_lt_succ w.isLt

@[simp] theorem setWidth_wordImm (w : Word) : (wordImm w).setWidth 5 = w := by
  simp [wordImm]

theorem exec_pmFeed_wordImm (w : Word) (s : State) : exec (.pmFeed (wordImm w)) s = .next (feed w s) := by
  rw [exec_pmFeed_ok (wordImm_le w), setWidth_wordImm]

theorem toNat_ofNat_code {c : Nat} (hc : c ≤ 127) : (BitVec.ofNat 8 c).toNat = c :=
  Nat.mod_eq_of_lt (by omega)

/-- `PM_HRP_HI` of a code feeds the code's high part (R136). -/
theorem exec_pmHrpHi_code {c : Nat} (hc : c ≤ 127) (s : State) :
    exec (.pmHrpHi (BitVec.ofNat 8 c)) s = .next (feed (BitVec.ofNat 5 (c / 32)) s) := by
  have hn := toNat_ofNat_code hc
  rw [exec_pmHrpHi_ok (hn.symm ▸ hc)]
  congr 2
  apply BitVec.eq_of_toNat_eq
  simp only [BitVec.toNat_setWidth, BitVec.toNat_ushiftRight, hn, Nat.shiftRight_eq_div_pow, BitVec.toNat_ofNat]

/-- `PM_HRP_LO` of a code feeds the code's low part (R137). -/
theorem exec_pmHrpLo_code {c : Nat} (hc : c ≤ 127) (s : State) :
    exec (.pmHrpLo (BitVec.ofNat 8 c)) s = .next (feed (BitVec.ofNat 5 (c % 32)) s) := by
  have hn := toNat_ofNat_code hc
  rw [exec_pmHrpLo_ok (hn.symm ▸ hc)]
  congr 2
  apply BitVec.eq_of_toNat_eq
  simp only [BitVec.toNat_setWidth, BitVec.toNat_and, hn, BitVec.toNat_ofNat]
  exact congrArg (· % 2 ^ 5) (Nat.and_two_pow_sub_one_eq_mod c 5)

/-- The commands `is` feed the words `ws` into `ACC`, in order, and do nothing else. -/
def Feeds (is : List Instr) (ws : List Word) : Prop :=
  ∀ s, runCmds is s = .next (s.setAcc (ws.foldl polyStep s.acc))

theorem Feeds.append {is js : List Instr} {vs ws : List Word} (hi : Feeds is vs) (hj : Feeds js ws) :
    Feeds (is ++ js) (vs ++ ws) := by
  intro s
  rw [runCmds_append (hi s), hj, List.foldl_append]
  rfl

/-- Commands that feed one word each feed the sequence of these words. -/
theorem feeds_map {β : Type} {cmd : β → Instr} {word : β → Word} {xs : List β}
    (hcmd : ∀ x ∈ xs, ∀ s, exec (cmd x) s = .next (feed (word x) s)) : Feeds (xs.map cmd) (xs.map word) := by
  induction xs with
  | nil => exact fun s => rfl
  | cons x xs ih =>
    have hx : Feeds [cmd x] [word x] := fun s => by simp only [runCmds, hcmd x List.mem_cons_self]; rfl
    exact hx.append (ih fun y hy => hcmd y (List.mem_cons_of_mem x hy))

/-- The feeds of the expansion of `p` (R133). -/
theorem hrpFeeds_feeds {p : List Nat} (hp : ∀ c ∈ p, c ≤ 127) : Feeds (hrpFeeds p) (expandHrp p) :=
  ((feeds_map fun c hc => exec_pmHrpHi_code (hp c hc)).append
    (feeds_map (xs := [(0 : Word)]) (word := id) fun w _ => exec_pmFeed_wordImm w)).append
    (feeds_map fun c hc => exec_pmHrpLo_code (hp c hc))

/-- `PM_INIT`, the expansion and the feeds of `ws` leave their polymod in `ACC` (R132, R133). -/
theorem runCmds_sequenceFeeds {p : List Nat} (hp : ∀ c ∈ p, c ≤ 127) (ws : List Word) (s : State) :
    runCmds (sequenceFeeds p (ws.map wordImm)) s = .next (s.setAcc (polymod (expandHrp p ++ ws))) := by
  have hws : Feeds ((ws.map wordImm).map .pmFeed) ws := by
    simpa [Function.comp_def] using feeds_map (xs := ws) (word := id) fun w _ => exec_pmFeed_wordImm w
  exact ((hrpFeeds_feeds hp).append hws) (s.setAcc Config.accInit)

/-- `MATCH` is bit 4 of `STATUS` (R34). -/
theorem statusWord_match (s : State) : (statusWord s).getLsbD 4 = s.matchFlag := by
  rw [statusWord, BitVec.getLsbD_append, BitVec.getLsbD_append]
  simp

theorem feedZeros_polymod (n : Nat) (vs : List Word) :
    feedZeros n (polymod vs) = polymod (vs ++ List.replicate n 0) := by
  rw [feedZeros_eq, polymod_append]

theorem exec_ckFinal (s : State) : ∃ t, exec .ckFinal s = .next t ∧
    t.cksum = feedZeros Config.ckLen s.acc ^^^ checksumConst := ⟨_, rfl, rfl⟩

/-- `CK_VERIFY` tells in `MATCH` whether `ACC` holds the constant (R140). -/
theorem exec_ckVerify (s : State) : ∃ t, exec .ckVerify s = .next t ∧ t.matchFlag = (s.acc == checksumConst) := by
  by_cases h : s.acc = checksumConst
  · exact ⟨_, exec_ckVerify_match h, by simp [h]⟩
  · exact ⟨_, exec_ckVerify_mismatch h, by simp [h]⟩

theorem exec_ckWord_index {i : Nat} (hi : i ∈ List.range Config.ckLen) (s : State) :
    exec (.ckWord (BitVec.ofNat 8 i)) s = .next (s.setResult ((checksumWord s.cksum i).setWidth 32)) := by
  have hlt : i < 6 := List.mem_range.mp hi
  have hn : (BitVec.ofNat 8 i).toNat = i := Nat.mod_eq_of_lt (by omega)
  rw [exec_ckWord_ok (by omega), hn]

/-- The commands of createChecksum (R141) give PLI's checksum words. -/
theorem checksumProc_runs (base : Nat) {p : List Nat} (hp : ∀ c ∈ p, c ≤ 127) (ws : List Word) (s : State) :
    ∃ t, Runs base (checksumProc p (ws.map wordImm)) s
      (issues base (sequenceFeeds p (ws.map wordImm) ++ [.ckFinal]) ++
        issuesReading base ((List.range Config.ckLen).map fun i => .ckWord (BitVec.ofNat 8 i)))
      ((createChecksum p ws).map wordImm) t := by
  obtain ⟨u, hfinal, hcksum⟩ := exec_ckFinal (s.setAcc (polymod (expandHrp p ++ ws)))
  have hfeeds : runCmds (sequenceFeeds p (ws.map wordImm) ++ [.ckFinal]) s = .next u := by
    rw [runCmds_append (runCmds_sequenceFeeds hp ws s)]
    simp only [runCmds, hfinal]
  obtain ⟨t, hwords, -⟩ := issueReading_map_runs (base := base) (I := fun v => v.cksum = u.cksum)
    (f := fun i => (checksumWord u.cksum i).setWidth 32)
    (fun i hi v hv => ⟨_, exec_ckWord_index hi v, by simp [hv], by simp [hv]⟩) rfl
  have hres : ((List.range Config.ckLen).map fun i => (checksumWord u.cksum i).setWidth 32).map (·.setWidth 8) =
      (createChecksum p ws).map wordImm := by
    rw [hcksum, State.setAcc_acc, feedZeros_polymod, createChecksum, List.map_map, List.map_map]
    exact List.map_congr_left fun i _ => BitVec.setWidth_setWidth_of_le _ (by decide)
  exact ⟨t, (Runs.issueAll hfeeds).andThen (hres ▸ hwords.map (List.map (·.setWidth 8)))⟩

/-- The commands of verifyChecksum (R142) give PLI's answer. -/
theorem verifyProc_runs (base : Nat) {p : List Nat} (hp : ∀ c ∈ p, c ≤ 127) (ws : List Word) (s : State) :
    ∃ t, Runs base (verifyProc p (ws.map wordImm)) s
      (issues base (sequenceFeeds p (ws.map wordImm) ++ [.ckVerify]) ++ [regAccess base .status])
      (verifyChecksum p ws) t := by
  obtain ⟨u, hverify, hmatch⟩ := exec_ckVerify (s.setAcc (polymod (expandHrp p ++ ws)))
  have hfeeds : runCmds (sequenceFeeds p (ws.map wordImm) ++ [.ckVerify]) s = .next u := by
    rw [runCmds_append (runCmds_sequenceFeeds hp ws s)]
    simp only [runCmds, hverify]
  have hanswer : (readReg .status u).getLsbD 4 = verifyChecksum p ws := (statusWord_match u).trans hmatch
  rw [← hanswer]
  exact ⟨_, (Runs.issueAll hfeeds).andThen (.rd (.done _ _))⟩

/-! ### The charset -/

/-- The search of `INV_ROM` is the search of the position (R31, R160). -/
theorem indexIn_eq_idxOf (c : Byte) (xs : List Byte) (i : Byte) :
    indexIn c xs i = ((xs.map BitVec.toNat).idxOf? c.toNat).elim invalidMark fun k => i + BitVec.ofNat 8 k := by
  induction xs generalizing i with
  | nil => rfl
  | cons x xs ih =>
    by_cases h : x = c
    · simp [indexIn, List.idxOf?_cons, h]
    · have hne : x.toNat ≠ c.toNat := fun h' => h (BitVec.eq_of_toNat_eq h')
      rw [indexIn, if_neg h, ih, List.map_cons, List.idxOf?_cons, if_neg (by simpa using hne)]
      cases (xs.map BitVec.toNat).idxOf? c.toNat with
      | none => rfl
      | some k =>
        simp only [Option.map_some, Option.elim_some, BitVec.ofNat_add]
        ac_rfl

/-- `INV_ROM` holds the word of a character of the charset, and the mark elsewhere (R31). -/
theorem invRom_eq_charIndex (c : Byte) : invRom c = (charIndex c.toNat).elim invalidMark wordImm := by
  rw [invRom, indexIn_eq_idxOf, charIndex]
  cases h : (charsetTable.map BitVec.toNat).idxOf? c.toNat with
  | none => rfl
  | some k =>
    have hk : k < 32 := (List.idxOf?_eq_some_iff.mp h).1
    apply BitVec.eq_of_toNat_eq
    simp [Nat.mod_eq_of_lt hk, show k < 256 by omega]

/-- No character of the charset has a code above 255. -/
theorem charIndex_eq_none {c : Nat} (h : 255 < c) : charIndex c = none := by
  have hmem : c ∉ charsetTable.map BitVec.toNat := by
    simp only [List.mem_map, not_exists, not_and]
    intro b _ hb
    have := b.isLt
    omega
  simp [charIndex, List.idxOf?_eq_none_iff.mpr hmem]

theorem exec_csDec (imm : Byte) (s : State) :
    ∃ t, exec (.csDec imm) s = .next t ∧ t.result = (invRom imm).setWidth 32 := by
  by_cases h : invRom imm = invalidMark
  · exact ⟨_, exec_csDec_bad h, by simp only [raiseErr_result, State.setResult_result, h]; rfl⟩
  · exact ⟨_, exec_csDec_ok h, rfl⟩

/-- What DECODE step 3 returns (R197): the words of the characters, or that one is invalid. -/
def decodedChars (d : List Nat) : Except DecodeError (List Byte) :=
  (d.mapM charIndex).elim (.error .invalidCharacter) fun ws => .ok (ws.map wordImm)

theorem decodedChars_cons_none {c : Nat} {cs : List Nat} (h : charIndex c = none) :
    decodedChars (c :: cs) = .error .invalidCharacter := by
  simp [decodedChars, h]

theorem decodedChars_cons_some {c : Nat} {cs : List Nat} {w : Word} (h : charIndex c = some w) :
    decodedChars (c :: cs) = (decodedChars cs).map (wordImm w :: ·) := by
  cases hcs : cs.mapM charIndex <;> simp [decodedChars, h, hcs, Except.map]

/-- `CS_DEC` leaves the word of the character in `RESULT`, or `0xFF` (R162). -/
theorem exec_csDec_char {c : Nat} (hc : c ≤ 255) (s : State) : ∃ t, exec (.csDec (BitVec.ofNat 8 c)) s = .next t ∧
    t.result = (charIndex c).elim 0xFF fun w => (wordImm w).setWidth 32 := by
  obtain ⟨t, ht, hres⟩ := exec_csDec (BitVec.ofNat 8 c) s
  have hn : (BitVec.ofNat 8 c).toNat = c := Nat.mod_eq_of_lt (by omega)
  rw [invRom_eq_charIndex, hn] at hres
  refine ⟨t, ht, ?_⟩
  cases h : charIndex c <;> simpa [h, invalidMark] using hres

/-- The word of a character is not taken for the mark. -/
theorem setWidth_wordImm_ne (w : Word) : (wordImm w).setWidth 32 ≠ (0xFF : Reg) := by
  intro h
  have h := congrArg BitVec.toNat h
  have := wordImm_le w
  rw [BitVec.toNat_setWidth_of_le (by decide)] at h
  simp at h
  omega

/-- DECODE step 3 makes the accesses of `charAccesses` and returns the words (R197, R203). -/
theorem decodeChars_runs (base : Nat) (d : List Nat) (s : State) :
    ∃ t, Runs base (decodeChars d) s (charAccesses base d) (decodedChars d) t := by
  induction d generalizing s with
  | nil => exact ⟨s, .done _ s⟩
  | cons c cs ih =>
    by_cases hc : 255 < c
    · simp only [decodeChars, charAccesses, hc, if_true, decodedChars_cons_none (charIndex_eq_none hc)]
      exact ⟨s, .done _ s⟩
    · obtain ⟨u, hu, hres⟩ := exec_csDec_char (Nat.not_lt.mp hc) s
      simp only [decodeChars, charAccesses, hc, if_false]
      cases h : charIndex c with
      | none =>
        rw [decodedChars_cons_none h]
        refine ⟨u.respond u.result, .issue hu (.rd ?_)⟩
        simp only [readReg, hres, h, Option.elim_none, if_true]
        exact .done _ _
      | some w =>
        obtain ⟨t, ht⟩ := ih (u.respond u.result)
        rw [decodedChars_cons_some h]
        refine ⟨t, .issue hu (.rd ?_)⟩
        rw [h, Option.elim_some] at hres
        have hw : u.result.setWidth 8 = wordImm w := by rw [hres, BitVec.setWidth_setWidth_of_le _ (by decide)]; simp
        rw [readReg, if_neg (hres ▸ setWidth_wordImm_ne w), ← hw]
        exact ht.map (Except.map (u.result.setWidth 8 :: ·))

/-! ### The regrouper -/

theorem toNat_and_lowMask (d : Dir) (v : RgAcc) : (v &&& lowMask (toBits d)).toNat = v.toNat % 2 ^ toBits d := by
  have hmask : (lowMask (toBits d)).toNat = 2 ^ toBits d - 1 := by cases d <;> rfl
  rw [BitVec.toNat_and, hmask, Nat.and_two_pow_sub_one_eq_mod]

theorem toNat_outValue (d : Dir) (v : RgAcc) : (outValue d v).toNat = v.toNat % 2 ^ toBits d := by
  have hle : 2 ^ toBits d ≤ 2 ^ 8 := by cases d <;> decide
  have hlt : v.toNat % 2 ^ toBits d < 2 ^ toBits d := Nat.mod_lt _ (by positivity)
  rw [outValue, BitVec.toNat_setWidth, toNat_and_lowMask, Nat.mod_eq_of_lt (by omega)]

/-- The twelve bits of `RG_ACC` are enough: regroup's unbounded accumulator never gives a value from above them. -/
theorem toNat_outValue_shift {d : Dir} {a : RgAcc} {acc k : Nat} (ha : a.toNat = acc % 2 ^ 12)
    (hk : k + toBits d ≤ 12) :
    (outValue d (a >>> k)).toNat = acc / 2 ^ k % 2 ^ toBits d := by
  have h12 : 2 ^ 12 = 2 ^ k * 2 ^ (12 - k) := by rw [← pow_add]; congr 1; omega
  rw [toNat_outValue, BitVec.toNat_ushiftRight, Nat.shiftRight_eq_div_pow, ha, h12, Nat.mod_mul_right_div_self]
  exact Nat.mod_mod_of_dvd _ (pow_dvd_pow 2 (by omega))

/-- The emit loop gives what regroup's gives (R103). -/
theorem emitLoop_eq_regroupEmit {d : Dir} {a : RgAcc} {acc : Nat} (ha : a.toNat = acc % 2 ^ 12) {fuel cnt : Nat}
    (hc : cnt ≤ 12) :
    (emitLoop d a fuel cnt).1.map BitVec.toNat = (regroupEmit (toBits d) acc fuel cnt).1 ∧
      (emitLoop d a fuel cnt).2 = (regroupEmit (toBits d) acc fuel cnt).2 := by
  induction fuel generalizing cnt with
  | zero => exact ⟨rfl, rfl⟩
  | succ fuel ih =>
    by_cases h : cnt < toBits d
    · simp [emitLoop, regroupEmit, h]
    · obtain ⟨h1, h2⟩ := ih (cnt := cnt - toBits d) (by omega)
      have hv := toNat_outValue_shift (d := d) ha (k := cnt - toBits d) (by omega)
      simp [emitLoop, regroupEmit, h, h1, h2, hv]

/-- A value shifted in stands below the accumulator (R103). -/
theorem toNat_shiftIn {d : Dir} {a : RgAcc} {acc : Nat} {v : Byte} (ha : a.toNat = acc % 2 ^ 12)
    (hv : v.toNat < 2 ^ fromBits d) : (shiftIn d a v).toNat = (acc * 2 ^ fromBits d + v.toNat) % 2 ^ 12 := by
  have hshift : a.toNat <<< fromBits d % 2 ^ 12 = (a.toNat % 2 ^ (12 - fromBits d)) <<< fromBits d := by
    cases d <;> simp only [Nat.shiftLeft_eq, fromBits] <;> omega
  rw [shiftIn, BitVec.toNat_or, BitVec.toNat_shiftLeft, BitVec.toNat_setWidth_of_le (by decide), hshift,
    ← Nat.shiftLeft_add_eq_or_of_lt hv, Nat.shiftLeft_eq, ha]
  cases d <;> simp only [fromBits] at hv ⊢ <;> omega

/-- A push never needs more than the twelve bits of `RG_ACC` (R101). -/
theorem cnt_add_fromBits_le {d : Dir} {cnt : Nat} (h : cnt < toBits d) : cnt + fromBits d ≤ 12 := by
  cases d <;> simp only [toBits, fromBits] at h ⊢ <;> omega

/-- Twelve bits hold at most two outputs (R104). -/
theorem div_toBits_le_two {d : Dir} {n : Nat} (h : n ≤ 12) : n / toBits d ≤ 2 := by
  cases d <;> simp only [toBits] <;> omega

/-- The registers of the stream hold the mode and, with `cnt` pending bits, the low bits of regroup's accumulator `acc`. -/
structure StreamHolds (d : Dir) (pad : Bool) (acc cnt : Nat) (s : State) : Prop where
  dir_eq : s.rgDir = d
  pad_eq : s.rgPad = pad
  acc_eq : s.rgAcc.toNat = acc % 2 ^ 12
  cnt_eq : s.rgCnt.toNat = cnt
  cnt_lt : cnt < toBits d

theorem exec_rgInit_holds (d : Dir) (pad : Bool) (s : State) :
    ∃ t, exec (.rgInit d pad) s = .next t ∧ StreamHolds d pad 0 0 t :=
  ⟨_, rfl, rfl, rfl, rfl, rfl, toBits_pos d⟩

/-- A push gives the outputs of regroup's turn and leaves its accumulator and its count (R103, R106). -/
theorem StreamHolds.push {d : Dir} {pad : Bool} {acc cnt : Nat} {s : State} {v : Byte}
    (h : StreamHolds d pad acc cnt s) (hv : v.toNat < 2 ^ fromBits d) :
    exec (.rgPush v) s = .next (pushValue v s) ∧
    let acc' := acc * 2 ^ fromBits d + v.toNat
    let out := regroupEmit (toBits d) acc' (cnt + fromBits d) (cnt + fromBits d)
    (bothOutputs (pushValue v s).result).map BitVec.toNat = out.1 ∧ StreamHolds d pad acc' out.2 (pushValue v s) := by
  obtain ⟨rfl, hpad, hacc, rfl, hlt⟩ := h
  have ha := toNat_shiftIn hacc hv
  have h12 := cnt_add_fromBits_le hlt
  obtain ⟨hout, hcnt⟩ := emitLoop_eq_regroupEmit ha (fuel := s.rgCnt.toNat + fromBits s.rgDir) h12
  obtain ⟨hmod, hlen⟩ := emitLoop_counts s.rgDir (shiftIn s.rgDir s.rgAcc v) _ _
    (Nat.le_refl (s.rgCnt.toNat + fromBits s.rgDir))
  have htwo : (s.rgCnt.toNat + fromBits s.rgDir) / toBits s.rgDir ≤ 2 := div_toBits_le_two h12
  have hleft : (s.rgCnt.toNat + fromBits s.rgDir) % toBits s.rgDir < toBits s.rgDir := Nat.mod_lt _ (toBits_pos _)
  have height : toBits s.rgDir ≤ 8 := by cases s.rgDir <;> decide
  refine ⟨exec_rgPush_ok hv, ?_, rfl, hpad, ha, ?_, ?_⟩
  · rw [← hout]
    exact congrArg _ (bothOutputs_pack (by rw [hlen]; exact htwo))
  · rw [← hcnt]
    exact Nat.mod_eq_of_lt (by omega)
  · omega

/-- The flush with padding gives regroup's last value (R108). -/
theorem StreamHolds.flush_pad {d : Dir} {acc cnt : Nat} {s : State} (h : StreamHolds d true acc cnt s) :
    ∃ t, exec .rgFlush s = .next t ∧ (bothOutputs t.result).map BitVec.toNat =
      if 0 < cnt then [acc * 2 ^ (toBits d - cnt) % 2 ^ toBits d] else [] := by
  obtain ⟨rfl, hpad, hacc, rfl, hlt⟩ := h
  refine ⟨_, exec_rgFlush_pad hpad, ?_⟩
  rw [State.setResult_result, padOutputs, bothOutputs_pack (by split <;> simp)]
  split
  · have h12 : toBits s.rgDir ≤ 12 := by cases s.rgDir <;> decide
    simp only [List.map_cons, List.map_nil, toNat_outValue, BitVec.toNat_shiftLeft, Nat.shiftLeft_eq, hacc]
    rw [Nat.mod_mod_of_dvd _ (pow_dvd_pow 2 h12), Nat.mul_mod, Nat.mod_mod_of_dvd _ (pow_dvd_pow 2 h12),
      ← Nat.mul_mod]
  · rfl

theorem StreamHolds.respond {d : Dir} {pad : Bool} {acc cnt : Nat} {s : State} (h : StreamHolds d pad acc cnt s)
    (v : Reg) : StreamHolds d pad acc cnt (s.respond v) :=
  ⟨h.dir_eq, h.pad_eq, h.acc_eq, h.cnt_eq, h.cnt_lt⟩

/-- Pushes with a read after each give the host regroup's outputs (R104, R110). -/
theorem pushes_run (base : Nat) {d : Dir} {pad : Bool} {data : List Byte}
    (hdata : ∀ v ∈ data, v.toNat < 2 ^ fromBits d) {acc cnt : Nat} {s : State} (h : StreamHolds d pad acc cnt s) :
    let out := regroupLoop (fromBits d) (toBits d) (data.map BitVec.toNat) acc cnt
    ∃ rs t, Runs base (issueReading (data.map .rgPush)) s (issuesReading base (data.map .rgPush)) rs t ∧
      (rs.flatMap bothOutputs).map BitVec.toNat = out.1 ∧ StreamHolds d pad out.2.1 out.2.2 t := by
  induction data generalizing acc cnt s with
  | nil => exact ⟨[], s, .done [] s, rfl, h⟩
  | cons v data ih =>
    obtain ⟨hpush, hout, hnext⟩ := h.push (hdata v List.mem_cons_self)
    obtain ⟨rs, t, hrun, houts, ht⟩ := ih (fun w hw => hdata w (List.mem_cons_of_mem v hw)) (hnext.respond _)
    refine ⟨_, t, hrun.issueReading_cons hpush, ?_, ht⟩
    rw [List.flatMap_cons, List.map_append, hout, houts]
    rfl

/-- A stream with padding gives the host the outputs of regroup. -/
theorem streamCmds_run (base : Nat) {d : Dir} {data : List Byte} (hdata : ∀ v ∈ data, v.toNat < 2 ^ fromBits d)
    {s : State} (h : StreamHolds d true 0 0 s) :
    ∃ rs t, Runs base (issueReading (streamCmds data)) s (issuesReading base (streamCmds data)) rs t ∧
      (rs.flatMap bothOutputs).map BitVec.toNat =
        (regroup (fromBits d) (toBits d) true (data.map BitVec.toNat)).1 := by
  obtain ⟨rs, t, hpushes, houts, ht⟩ := pushes_run base hdata h
  obtain ⟨u, hflush, hlast⟩ := ht.flush_pad
  have hclose : Runs base (issueReading [.rgFlush]) t (issuesReading base [.rgFlush]) [u.result] (u.respond u.result) :=
    .issueReading_cons hflush (.done [] _)
  refine ⟨rs ++ [u.result], _, issuesReading_append base _ _ ▸ hpushes.issueReading_append hclose, ?_⟩
  rw [List.flatMap_append, List.map_append, houts, List.flatMap_singleton, hlast]
  rfl

/-- Every value regroup gives has `toBits` bits. -/
theorem regroupEmit_lt {tw acc fuel cnt : Nat} : ∀ v ∈ (regroupEmit tw acc fuel cnt).1, v < 2 ^ tw := by
  induction fuel generalizing cnt with
  | zero => simp [regroupEmit]
  | succ fuel ih =>
    intro v hv
    rw [regroupEmit] at hv
    split at hv
    · simp at hv
    · rcases List.mem_cons.mp hv with rfl | hv
      · exact Nat.mod_lt _ (by positivity)
      · exact ih v hv

theorem regroupLoop_lt {fw tw : Nat} {data : List Nat} {acc cnt : Nat} :
    ∀ v ∈ (regroupLoop fw tw data acc cnt).1, v < 2 ^ tw := by
  induction data generalizing acc cnt with
  | nil => simp [regroupLoop]
  | cons v data ih =>
    intro w hw
    rcases List.mem_append.mp hw with hw | hw
    · exact regroupEmit_lt w hw
    · exact ih w hw

theorem regroup_lt {fw tw : Nat} {pad : Bool} {data : List Nat} : ∀ v ∈ (regroup fw tw pad data).1, v < 2 ^ tw := by
  intro v hv
  cases pad with
  | false => exact regroupLoop_lt v hv
  | true =>
    rcases List.mem_append.mp hv with hv | hv
    · exact regroupLoop_lt v hv
    · split at hv
      · obtain rfl := List.mem_singleton.mp hv
        exact Nat.mod_lt _ (by positivity)
      · simp at hv

/-- Bytes below 32 are words as operands. -/
theorem eq_map_wordImm {bs : List Byte} {vs : List Nat} (h : bs.map BitVec.toNat = vs) (hlt : ∀ v ∈ vs, v < 2 ^ 5) :
    bs = (vs.map (BitVec.ofNat 5)).map wordImm := by
  subst h
  rw [List.map_map, List.map_map]
  refine (List.map_id bs).symm.trans (List.map_congr_left fun b hb => BitVec.eq_of_toNat_eq ?_)
  have hb : b.toNat < 2 ^ 5 := hlt b.toNat (List.mem_map_of_mem hb)
  simp only [id_eq, Function.comp_apply, toNat_wordImm, BitVec.toNat_ofNat, Nat.mod_eq_of_lt hb]

/-! ### ENCODE and DECODE -/

/-- The characters of `p` pass the check of R192 and R202. -/
theorem le_of_hrpTooHigh_eq_false {p : List Nat} (h : hrpTooHigh p = false) : ∀ c ∈ p, c ≤ 127 := by
  intro c hc
  have := List.any_eq_false.mp h c hc
  simpa using this

/-- `CS_ENC` of each word gives the host its character (R161). -/
theorem csEnc_runs (base : Nat) (ws : List Word) (s : State) :
    ∃ cs t, Runs base (issueReading (ws.map fun w => .csEnc (wordImm w))) s
      (issuesReading base (ws.map fun w => .csEnc (wordImm w))) cs t ∧
      cs.map (·.toNat) = ws.map fun w => (charsetRom w).toNat := by
  obtain ⟨t, h, -⟩ := issueReading_map_runs (base := base) (I := fun _ => True)
    (f := fun w => (charsetRom w).setWidth 32) (cmd := fun w => .csEnc (wordImm w)) (xs := ws)
    (fun w _ v _ => ⟨_, exec_csEnc_ok (wordImm_le w), by simp, trivial⟩) (s := s) trivial
  refine ⟨_, t, h, ?_⟩
  rw [List.map_map]
  exact List.map_congr_left fun w _ => BitVec.toNat_setWidth_of_le (by decide)

/-- The commands that feed the expansion and the words, as the accesses of ENCODE and DECODE list them. -/
theorem sequenceFeeds_words (p : List Nat) (ws : List Word) : sequenceFeeds p (ws.map wordImm) =
    [Instr.pmInit] ++ p.map (fun c => Instr.pmHrpHi (BitVec.ofNat 8 c)) ++ [Instr.pmFeed 0] ++
      p.map (fun c => Instr.pmHrpLo (BitVec.ofNat 8 c)) ++ ws.map (fun w => Instr.pmFeed (wordImm w)) := by
  simp [sequenceFeeds, hrpFeeds]

/-- ENCODE makes the accesses of `encodeAccesses` and returns PLI's encode (R192, R193). -/
theorem encodeProc_runs (base : Nat) (p : List Nat) (b : List Byte) (s : State) :
    ∃ t, Runs base (encodeProc p b) s (encodeAccesses base p b) (pliEncode p b) t := by
  unfold encodeProc encodeAccesses pliEncode
  by_cases hp : p.isEmpty
  · simp only [hp, if_true, Bool.true_or]
    exact ⟨s, .done _ s⟩
  by_cases hhigh : hrpTooHigh p
  · simp only [hp, hhigh, if_true, Bool.or_true]
    exact ⟨s, .done _ s⟩
  · simp only [hp, hhigh, Bool.or_self, Bool.false_eq_true, if_false]
    have hcodes := le_of_hrpTooHigh_eq_false (Bool.eq_false_iff.mpr hhigh)
    set words := (regroup 8 5 true (b.map BitVec.toNat)).1.map (BitVec.ofNat 5)
    obtain ⟨s1, hinit, hs1⟩ := exec_rgInit_holds .to5 true (clearErr s)
    have hopen : runCmds [.clrErr, .rgInit .to5 true] s = .next s1 := hinit
    obtain ⟨rs, s2, hstream, hrs⟩ := streamCmds_run base (d := .to5) (fun v _ => v.isLt) hs1
    obtain ⟨s3, hck⟩ := checksumProc_runs base hcodes words s2
    obtain ⟨cs, t, hcs, hchars⟩ := csEnc_runs base (words ++ createChecksum p words) s3
    have hwords : rs.flatMap bothOutputs = words.map wordImm := eq_map_wordImm hrs regroup_lt
    refine ⟨t, ?_⟩
    rw [← sequenceFeeds_words]
    simp only [List.append_assoc]
    refine (Runs.issueAll hopen).andThen (hstream.andThen ?_)
    rw [hwords, ← List.append_assoc]
    refine hck.andThen ?_
    rw [← List.map_append, List.map_map]
    simpa only [List.append_assoc, hchars, Function.comp_def] using
      hcs.map fun cs => (.ok (p ++ [Config.sepChar] ++ cs.map (·.toNat)) : Except EncodingError (List Nat))

/-- DECODE step 6 makes the same accesses whatever the flush finds (R200). -/
theorem decodePayload_runs (base : Nat) (ws : List Word) (s : State) :
    ∃ r t, Runs base (decodePayload (ws.map wordImm)) s
      (issues base [.rgInit .to8 false] ++ issuesReading base (ws.map fun w => .rgPush (wordImm w)) ++
        issues base [.rgFlush] ++ [regAccess base .status]) r t := by
  have hcmds : (ws.map wordImm).map Instr.rgPush = ws.map fun w => .rgPush (wordImm w) := List.map_map
  have hinit : exec (.rgInit .to8 false) s = .next ((s.setMode .to8 false).setStream 0 0) := rfl
  obtain ⟨rs, u, hpushes⟩ := issueReading_runs base ((ws.map wordImm).map .rgPush) _
  obtain ⟨v, hflush, -⟩ := exec_next .rgFlush u
  simp only [List.append_assoc]
  rw [← hcmds]
  exact ⟨_, _, .issue hinit (hpushes.andThen (.issue hflush (.rd (.ite_done ..))))⟩

/-- After the split DECODE makes the accesses of `decodeAccesses`, whichever check fails first. -/
theorem decodeParts_runs (base : Nat) {str p d : List Nat} (hsplit : splitAtLast str = some (p, d)) (s : State) :
    ∃ r t, Runs base (decodeParts p d) s (decodeAccesses base str) r t := by
  simp only [decodeParts, decodeAccesses, hsplit]
  by_cases hlen : d.length < Config.ckLen
  · simp only [hlen, if_true]
    exact ⟨_, s, .done _ s⟩
  simp only [hlen, if_false]
  have hclr : exec .clrErr s = .next (clearErr s) := rfl
  obtain ⟨s1, hchars⟩ := decodeChars_runs base d (clearErr s)
  rw [decodedChars] at hchars
  cases hd : d.mapM charIndex with
  | none =>
    rw [hd] at hchars
    exact ⟨_, s1, .issue hclr (hchars.andThen (.done _ s1))⟩
  | some combined =>
    rw [hd] at hchars
    by_cases hhigh : hrpTooHigh p
    · simp only [hhigh, if_true]
      exact ⟨_, s1, .issue hclr (hchars.andThen (.done _ s1))⟩
    simp only [hhigh, Bool.false_eq_true, if_false]
    obtain ⟨s2, hverify⟩ := verifyProc_runs base (le_of_hrpTooHigh_eq_false (Bool.eq_false_iff.mpr hhigh)) combined s1
    rw [← sequenceFeeds_words]
    by_cases hok : verifyChecksum p combined
    · rw [hok] at hverify
      simp only [hok, Bool.not_true, Bool.false_eq_true, if_false]
      obtain ⟨r, t, hpayload⟩ := decodePayload_runs base (combined.take (combined.length - Config.ckLen)) s2
      refine ⟨r.map fun b => (p, b), t, .issue hclr (hchars.andThen (hverify.andThen ?_))⟩
      rw [List.length_map, ← List.map_take]
      exact hpayload.map (Except.map fun b => (p, b))
    · rw [Bool.eq_false_iff.mpr hok] at hverify
      simp only [hok, Bool.not_false, if_true]
      exact ⟨_, s2, .issue hclr (hchars.andThen (hverify.andThen (.done _ s2)))⟩

/-- The accesses of DECODE are `decodeAccesses`. -/
theorem decodeProc_runs (base : Nat) (str : List Nat) (s : State) :
    ∃ r t, Runs base (decodeProc str) s (decodeAccesses base str) r t := by
  cases h : splitAtLast str with
  | none =>
    simp only [decodeProc, decodeAccesses, h]
    exact ⟨_, s, .done _ s⟩
  | some parts =>
    simp only [decodeProc, h]
    exact decodeParts_runs base h s

/-- With nothing else to come, a run of a procedure is the run of the machine's steps over its accesses, and following the
procedure over the responses gives these accesses back. -/
theorem Runs.is_run_of_steps {α : Type} {m : HostProc α} {s t : State} {evs : List HostEvent} {a : α}
    (h : Runs s.b32Base m s evs a t) (hpending : s.pending = []) :
    ∃ reads, runHost m s = .next (t, a) ∧ t.responses = reads.reverse ++ s.responses ∧
      follow s.b32Base m reads = some (evs, a) ∧ core.run evs.length { s with pending := evs } = .next t := by
  obtain ⟨reads, hresponses, hfollow⟩ := h.follow_reads
  have ht : t.setPending [] = t := by
    rw [← hpending, ← h.pending_eq]
    rfl
  exact ⟨reads, h.runHost_eq, hresponses, hfollow, (h.core_run rfl).trans (congrArg _ ht)⟩

/-- Settles O58: ENCODE and DECODE run with the accesses the pseudocode names, and every run of a procedure is the run of
the machine's steps over its accesses. -/
theorem hostProceduresAreRunsOfSteps : Obligations.HostProceduresAreRunsOfSteps := by
  refine ⟨fun p b s hs => ?_, fun str s hs => ?_⟩
  · obtain ⟨t, h⟩ := encodeProc_runs s.b32Base p b s
    exact ⟨t, _, h.is_run_of_steps hs⟩
  · obtain ⟨r, t, h⟩ := decodeProc_runs s.b32Base str s
    exact ⟨t, r, h.is_run_of_steps hs⟩

end Sys2Proof.Machine

/-! SUPPORT. What a command writes beside the error record, and which error it raises, said once for every command; then
the invariant of the core (O49, O50), the kept error record (O45) and the writers of each register (O48). -/

namespace Sys2Proof.Machine

open Sys2Proof.Safety

/-! ### What a command writes and what it raises -/

/-- From `s` a command of the row writes `u`, the error it may raise left aside. Values no rule about who writes what
depends on are left open; a command whose operand check fails writes `nothing`. -/
inductive Writes (s : State) : Opcode → State → Prop
  | nothing (o : Opcode) : Writes s o s
  | reset : Writes s .softReset (resetCore s)
  | clear : Writes s .clrErr (clearErr s)
  | mode (d : Dir) (pad : Bool) : Writes s .rgInit ((s.setMode d pad).setStream 0 0)
  | push (v : Byte) : Writes s .rgPush (pushValue v s)
  | flush (r : Reg) : Writes s .rgFlush ((s.setStream 0 0).setResult r)
  | acc {o : Opcode} (ho : o ∈ [.pmInit, .pmFeed, .pmHrpHi, .pmHrpLo]) (a : Residue) : Writes s o (s.setAcc a)
  | checksum (a c : Residue) (r : Reg) : Writes s .ckFinal (((s.setAcc a).setCksum c).setResult r)
  | verdict (b : Bool) (r : Reg) : Writes s .ckVerify ((s.setMatch b).setResult r)
  | result {o : Opcode} (ho : o ∈ [.ckWord, .csEnc, .csDec]) (r : Reg) : Writes s o (s.setResult r)

/-- A command answers what it writes, or that with one of its errors raised under its own opcode (R220, R221, R223). -/
theorem exec_writes (i : Instr) (s : State) : ∃ u, Writes s i.opcode u ∧
    (exec i s = .next u ∨
      ∃ e, e.code ∈ errorsOf i.opcode ∧ exec i s = .next (raiseErr e i.opcode.byte u)) := by
  cases i with
  | nop => exact ⟨_, .nothing _, .inl rfl⟩
  | softReset => exact ⟨_, .reset, .inl rfl⟩
  | clrErr => exact ⟨_, .clear, .inl rfl⟩
  | rgInit d pad => exact ⟨_, .mode d pad, .inl rfl⟩
  | rgPush imm =>
    rcases Nat.lt_or_ge imm.toNat (2 ^ fromBits s.rgDir) with h | h
    · exact ⟨_, .push imm, .inl (exec_rgPush_ok h)⟩
    · exact ⟨_, .nothing _, .inr ⟨_, .head _, exec_rgPush_bad h⟩⟩
  | rgFlush =>
    cases hpad : s.rgPad with
    | true => exact ⟨_, .flush _, .inl (exec_rgFlush_pad hpad)⟩
    | false =>
      cases hbad : leftoverBad s.rgDir s.rgAcc s.rgCnt.toNat with
      | true => exact ⟨_, .flush 0, .inr ⟨_, .head _, exec_rgFlush_bad hpad hbad⟩⟩
      | false => exact ⟨_, .flush 0, .inl (exec_rgFlush_clean hpad hbad)⟩
  | pmInit => exact ⟨_, .acc (by decide) _, .inl rfl⟩
  | pmFeed imm =>
    rcases Nat.lt_or_ge 31 imm.toNat with h | h
    · exact ⟨_, .nothing _, .inr ⟨_, .head _, exec_pmFeed_bad h⟩⟩
    · exact ⟨_, .acc (o := .pmFeed) (by decide) _, .inl (exec_pmFeed_ok h)⟩
  | pmHrpHi imm =>
    rcases Nat.lt_or_ge 127 imm.toNat with h | h
    · exact ⟨_, .nothing _, .inr ⟨_, .head _, exec_pmHrpHi_bad h⟩⟩
    · exact ⟨_, .acc (o := .pmHrpHi) (by decide) _, .inl (exec_pmHrpHi_ok h)⟩
  | pmHrpLo imm =>
    rcases Nat.lt_or_ge 127 imm.toNat with h | h
    · exact ⟨_, .nothing _, .inr ⟨_, .head _, exec_pmHrpLo_bad h⟩⟩
    · exact ⟨_, .acc (o := .pmHrpLo) (by decide) _, .inl (exec_pmHrpLo_ok h)⟩
  | ckFinal => exact ⟨_, .checksum _ _ _, .inl rfl⟩
  | ckWord imm =>
    rcases Nat.lt_or_ge 5 imm.toNat with h | h
    · exact ⟨_, .nothing _, .inr ⟨_, .head _, exec_ckWord_bad h⟩⟩
    · exact ⟨_, .result (o := .ckWord) (by decide) _, .inl (exec_ckWord_ok h)⟩
  | ckVerify =>
    by_cases h : s.acc = checksumConst
    · exact ⟨_, .verdict _ _, .inl (exec_ckVerify_match h)⟩
    · exact ⟨_, .verdict _ _, .inr ⟨_, .head _, exec_ckVerify_mismatch h⟩⟩
  | csEnc imm =>
    rcases Nat.lt_or_ge 31 imm.toNat with h | h
    · exact ⟨_, .nothing _, .inr ⟨_, .head _, exec_csEnc_bad h⟩⟩
    · exact ⟨_, .result (o := .csEnc) (by decide) _, .inl (exec_csEnc_ok h)⟩
  | csDec imm =>
    by_cases h : invRom imm = invalidMark
    · exact ⟨_, .result (o := .csDec) (by decide) _, .inr ⟨_, .head _, exec_csDec_bad h⟩⟩
    · exact ⟨_, .result (o := .csDec) (by decide) _, .inl (exec_csDec_ok h)⟩

/-- The inversion of `exec`: what a command's next state can be. -/
theorem exec_cases {i : Instr} {s t : State} (h : exec i s = .next t) : ∃ u, Writes s i.opcode u ∧
    (t = u ∨ ∃ e, e.code ∈ errorsOf i.opcode ∧ t = raiseErr e i.opcode.byte u) := by
  obtain ⟨u, hu, hexec⟩ := exec_writes i s
  simp only [h, Host.Outcome.next.injEq] at hexec
  exact ⟨u, hu, hexec⟩

/-- Only `CLR_ERR` and `SOFT_RESET` write the error record otherwise than by raising an error (R25, R27, R28). -/
theorem Writes.keeps_record {s u : State} {o : Opcode} (h : Writes s o u) (hclr : o ≠ .clrErr)
    (hreset : o ≠ .softReset) : u.err = s.err ∧ u.errOp = s.errOp ∧ u.ovf = s.ovf := by
  cases h with
  | reset => exact absurd rfl hreset
  | clear => exact absurd rfl hclr
  | nothing | mode | push | flush | acc | checksum | verdict | result => exact ⟨rfl, rfl, rfl⟩

/-! ### What raising an error leaves -/

/-- The first error is recorded with its opcode, a later one only sets `OVF` (R223). -/
theorem raiseErr_records (e : ErrCode) (op : Byte) (s : State) : Records e.code op s (raiseErr e op s) := by
  refine ⟨fun h => by simp [h], fun h => ?_⟩
  rw [raiseErr_err, raiseErr_errOp, raiseErr_ovf, if_neg h, if_neg h, if_neg h]
  exact ⟨rfl, rfl, rfl⟩

/-- Raising an error writes the record and the note of R236, and nothing else. -/
theorem raiseErr_sameButRecord (e : ErrCode) (op : Byte) (s : State) : SameButRecord s (raiseErr e op s) := by
  rw [SameButRecord, raiseErr_eq]

/-! ### The invariant of the core -/

theorem resetCore_streamInv (s : State) : StreamInv (resetCore s) := toBits_pos .to5

/-- A push leaves less than one output pending (R37, R103). -/
theorem pushValue_streamInv (v : Byte) (s : State) : StreamInv (pushValue v s) := by
  have hleft : (emitLoop s.rgDir (shiftIn s.rgDir s.rgAcc v) (s.rgCnt.toNat + fromBits s.rgDir)
      (s.rgCnt.toNat + fromBits s.rgDir)).2 < toBits s.rgDir := by
    rw [(emitLoop_counts _ _ _ _ (Nat.le_refl _)).1]
    exact Nat.mod_lt _ (toBits_pos _)
  exact (Nat.mod_le _ _).trans_lt hleft

theorem Writes.streamInv {s u : State} {o : Opcode} (h : Writes s o u) (hs : StreamInv s) : StreamInv u := by
  cases h with
  | reset => exact resetCore_streamInv s
  | mode d pad => exact toBits_pos d
  | push v => exact pushValue_streamInv v s
  | flush r => exact toBits_pos s.rgDir
  | nothing | clear | acc | checksum | verdict | result => exact hs

/-- A clear record is one that recording can leave. -/
theorem recordInv_of_clear {s : State} (herr : s.err = 0) (hop : s.errOp = 0) (hovf : s.ovf = false) :
    RecordInv s := by
  refine ⟨by rw [herr, hop]; rfl, fun _ => hovf, fun h => ?_⟩
  rw [herr] at h
  exact absurd h (by decide)

theorem Writes.recordInv {s u : State} {o : Opcode} (h : Writes s o u) (hs : RecordInv s) : RecordInv u := by
  cases h with
  | reset | clear => exact recordInv_of_clear rfl rfl rfl
  | nothing | mode | push | flush | acc | checksum | verdict | result => exact hs

/-- The codes of class P are 1, 2 and 3 (R220). -/
theorem hostFault_isSome_of_code {e : ErrCode} (h : e.code ∈ [1#4, 2#4, 3#4]) : e.hostFault.isSome := by
  cases e with
  | illegalCmd | operandRange | hrpChar => rfl
  | invalidChar | checksumMismatch | nonzeroPadding => exact absurd h (by decide)

/-- Raising an error under an opcode that can raise it keeps the record one that recording can leave (R223, R236). -/
theorem raiseErr_recordInv {e : ErrCode} {op : Byte} {s : State} (hs : RecordInv s)
    (horigin : errOrigin e.code op = true) : RecordInv (raiseErr e op s) := by
  obtain ⟨hold, hovf, hnote⟩ := hs
  unfold RecordInv
  by_cases hclear : s.err = 0
  · simp only [raiseErr_err, raiseErr_errOp, raiseErr_ovf, raiseErr_hostFault, hclear, if_true, Option.isSome_or]
    exact ⟨horigin, fun _ => hovf hclear, fun h => by simp [hostFault_isSome_of_code h]⟩
  · simp only [raiseErr_err, raiseErr_errOp, raiseErr_ovf, raiseErr_hostFault, if_neg hclear, Option.isSome_or]
    exact ⟨hold, fun h => absurd h hclear, fun h => by simp [hnote h]⟩

/-- The table of a command's errors agrees with the table of an error's commands (R220). -/
theorem errOrigin_of_mem_errorsOf {o : Opcode} {code : BitVec 4} (h : code ∈ errorsOf o) :
    errOrigin code o.byte = true := by
  cases o <;> simp only [errorsOf, List.not_mem_nil, List.mem_singleton] at h <;> subst h <;> rfl

theorem raiseErr_coreInv {e : ErrCode} {op : Byte} {s : State} (hs : CoreInv s)
    (horigin : errOrigin e.code op = true) : CoreInv (raiseErr e op s) := by
  obtain ⟨hstream, hrecord⟩ := hs
  refine ⟨?_, raiseErr_recordInv hrecord horigin⟩
  simpa only [StreamInv, raiseErr_rgCnt, raiseErr_rgDir] using hstream

theorem resetCore_coreInv (s : State) : CoreInv (resetCore s) :=
  ⟨resetCore_streamInv s, recordInv_of_clear rfl rfl rfl⟩

theorem exec_coreInv {i : Instr} {s t : State} (hs : CoreInv s) (h : exec i s = .next t) : CoreInv t := by
  obtain ⟨u, hu, ht⟩ := exec_cases h
  have hinv : CoreInv u := ⟨hu.streamInv hs.1, hu.recordInv hs.2⟩
  obtain rfl | ⟨e, he, rfl⟩ := ht
  · exact hinv
  · exact raiseErr_coreInv hinv (errOrigin_of_mem_errorsOf he)

/-- The inversion of `execute`: a word executes its command, or it is no command and `ILLEGAL_CMD` is raised (R74). -/
theorem execute_cases {w : Reg} {s t : State} (h : execute w s = .next t) :
    (∃ i, decode w = .ok i ∧ exec i s = .next t) ∨
    ∃ r, decode w = .error r ∧ t = raiseErr .illegalCmd (opField w) s := by
  cases hd : decode w with
  | ok i => exact .inl ⟨i, rfl, execute_ok hd ▸ h⟩
  | error r =>
    rw [execute_error hd] at h
    cases h
    exact .inr ⟨r, rfl, rfl⟩

theorem execute_coreInv {w : Reg} {s t : State} (hs : CoreInv s) (h : execute w s = .next t) : CoreInv t := by
  obtain ⟨i, -, hexec⟩ | ⟨r, -, rfl⟩ := execute_cases h
  · exact exec_coreInv hs hexec
  · exact raiseErr_coreInv hs rfl

/-- The inversion of `serve`: what the next state can be once an event is served (R53, R54, R250). -/
theorem serve_cases {ev : HostEvent} {s t : State} (h : serve ev s = .next t) :
    t = s ∨ t = resetCore s ∨ (∃ v, t = s.respond v) ∨ ∃ w, execute w s = .next t := by
  cases ev with
  | reset =>
    cases h
    exact .inr (.inl rfl)
  | read addr bits =>
    simp only [serve] at h
    split at h <;> cases h
    exact .inr (.inr (.inl ⟨_, rfl⟩))
  | write addr bits v =>
    simp only [serve] at h
    split at h
    · simp only [regWrite] at h
      split at h
      · exact .inr (.inr (.inr ⟨v, h⟩))
      · cases h
        exact .inl rfl
    · cases h

theorem serve_coreInv {ev : HostEvent} {s t : State} (hs : CoreInv s) (h : serve ev s = .next t) : CoreInv t := by
  obtain rfl | rfl | ⟨v, rfl⟩ | ⟨w, hw⟩ := serve_cases h
  · exact hs
  · exact resetCore_coreInv s
  · exact hs
  · exact execute_coreInv hs hw

/-- Settles O49: an event served keeps both parts, a push because its loop leaves the remainder of the count, an error
because its opcode is one that raises it. -/
theorem stepKeepsTheCoreInvariant : Obligations.StepKeepsTheCoreInvariant := by
  intro s t hs h
  cases hp : s.pending with
  | nil =>
    simp only [step, serveNext, hp] at h
    cases h
    exact hs
  | cons ev rest =>
    rw [step_cons hp] at h
    exact serve_coreInv (s := s.setPending rest) hs h

/-- Settles O50: the state after reset is a reset of itself. -/
theorem resetHasTheCoreInvariant : Obligations.ResetHasTheCoreInvariant := resetCore_coreInv State.reset

/-! ### Who writes the record and the registers -/

theorem eq_clrErr_of_opcode {i : Instr} (h : i.opcode = .clrErr) : i = .clrErr := by
  cases i with
  | clrErr => rfl
  | _ => cases h

theorem eq_softReset_of_opcode {i : Instr} (h : i.opcode = .softReset) : i = .softReset := by
  cases i with
  | softReset => rfl
  | _ => cases h

/-- Settles O45: every other command writes the record only by raising an error, which keeps a recorded error and a set
`OVF`. -/
theorem recordedErrorIsKept : Obligations.RecordedErrorIsKept := by
  intro i s t h hclr hreset
  obtain ⟨u, hu, ht⟩ := exec_cases h
  obtain ⟨herr, hop, hovf⟩ := hu.keeps_record (hclr ∘ eq_clrErr_of_opcode) (hreset ∘ eq_softReset_of_opcode)
  rw [← herr, ← hop, ← hovf]
  obtain rfl | ⟨e, -, rfl⟩ := ht
  · exact ⟨fun _ => ⟨rfl, rfl⟩, id⟩
  · refine ⟨fun hset => ?_, fun hset => ?_⟩
    · obtain ⟨hkept, hkeptOp, -⟩ := (raiseErr_records e i.opcode.byte u).2 hset
      exact ⟨hkept, hkeptOp⟩
    · rw [raiseErr_ovf, hset, ite_self]

/-- Where a register differs from `s` to `t`, `o` is one of the commands R22 to R24, R26 and R29 list for it; the fields
that are no registers of R20 are the same. -/
def WritesListed (o : Opcode) (s t : State) : Prop :=
  (t.acc ≠ s.acc → o ∈ [.pmInit, .pmFeed, .pmHrpHi, .pmHrpLo, .ckFinal, .softReset]) ∧
  (t.cksum ≠ s.cksum → o ∈ [.ckFinal, .softReset]) ∧
  (t.result ≠ s.result → o ∈ [.rgPush, .rgFlush, .ckFinal, .ckWord, .ckVerify, .csEnc, .csDec, .softReset]) ∧
  (t.matchFlag ≠ s.matchFlag → o ∈ [.ckVerify, .softReset]) ∧
  (t.rgDir ≠ s.rgDir ∨ t.rgPad ≠ s.rgPad → o ∈ [.rgInit, .softReset]) ∧
  (t.rgAcc ≠ s.rgAcc ∨ t.rgCnt ≠ s.rgCnt → o ∈ [.rgInit, .rgPush, .rgFlush, .softReset]) ∧
  t.b32Base = s.b32Base ∧ t.pending = s.pending ∧ t.responses = s.responses

theorem Writes.listed {s u : State} {o : Opcode} (h : Writes s o u) : WritesListed o s u := by
  cases h with
  | acc ho a =>
    have hlisted : o ∈ [.pmInit, .pmFeed, .pmHrpHi, .pmHrpLo, .ckFinal, .softReset] := List.mem_append_left [_, _] ho
    simp [WritesListed, hlisted]
  | result ho r =>
    have hlisted : o ∈ [.rgPush, .rgFlush, .ckFinal, .ckWord, .ckVerify, .csEnc, .csDec, .softReset] := by
      simp only [List.mem_cons, List.not_mem_nil, or_false] at ho
      rcases ho with rfl | rfl | rfl <;> decide
    simp [WritesListed, hlisted]
  | nothing | reset | clear | mode | push | flush | checksum | verdict => simp [WritesListed, pushValue]

/-- Raising an error writes no register but the record. -/
theorem writesListed_raiseErr {o : Opcode} {s u : State} (h : WritesListed o s u) (e : ErrCode) (op : Byte) :
    WritesListed o s (raiseErr e op u) := by
  simpa [WritesListed] using h

/-- Settles O48: what a command writes is listed, and the error it may raise writes no register beside the record. -/
theorem onlyListedCommandsWriteARegister : Obligations.OnlyListedCommandsWriteARegister := by
  intro i s t h
  obtain ⟨u, hu, rfl | ⟨e, -, rfl⟩⟩ := exec_cases h
  · exact hu.listed
  · exact writesListed_raiseErr hu.listed e _

end Sys2Proof.Machine

/-! SUPPORT. The regrouper's outputs as numbers (O20 to O22), the words `STATUS` and `RGSTATE` are read as (O11), the
values of reset (O1) and the entries of `INV_ROM` (O41). -/

namespace Sys2Proof.Machine

open Sys2Proof.Safety

/-! ### Words put together from fields -/

/-- Fields side by side are the sum of their shifted numbers. -/
theorem toNat_append_eq_add {m n : Nat} (x : BitVec m) (y : BitVec n) : (x ++ y).toNat = x.toNat * 2 ^ n + y.toNat := by
  rw [BitVec.toNat_append, ← Nat.shiftLeft_add_eq_or_of_lt y.isLt, Nat.shiftLeft_eq]

/-- Settles O11: each word is the sum of its fields. -/
theorem statusAndRgstateHaveTheirLayout : Obligations.StatusAndRgstateHaveTheirLayout := by
  intro s
  have hdir : s.rgDir.bit.toNat = if s.rgDir = .to8 then 1 else 0 := by cases s.rgDir <;> rfl
  simp only [statusWord, rgstateWord, toNat_append_eq_add, BitVec.toNat_ofBool, BitVec.toNat_ofNat, hdir]
  omega

/-- A packed `RESULT` as a number (R104). -/
theorem packOutputs_eq {outs : List Byte} (h : outs.length ≤ 2) : packOutputs outs =
    BitVec.ofNat 32 (outs.length * 2 ^ 16 + (outs.getD 1 0).toNat * 2 ^ 8 + (outs.getD 0 0).toNat) := by
  have hn : (BitVec.ofNat 2 outs.length).toNat = outs.length := Nat.mod_eq_of_lt (by omega)
  have h1 := (outs.getD 1 0).isLt
  have h0 := (outs.getD 0 0).isLt
  apply BitVec.eq_of_toNat_eq
  rw [packOutputs, packed_toNat, hn, BitVec.toNat_ofNat]
  omega

@[simp] theorem packOutputs_nil : packOutputs [] = 0 := rfl

/-! ### The pending bits as a number -/

/-- The pending bits followed by the input are the low bits of the accumulator with the input shifted in. -/
theorem pending_then_input {a v cnt f : Nat} (hv : v < 2 ^ f) :
    a % 2 ^ cnt * 2 ^ f + v = (a * 2 ^ f + v) % 2 ^ (cnt + f) := by
  rw [pow_add, mul_comm (2 ^ cnt), Nat.mod_mul, Nat.mul_add_mod_self_right, Nat.mod_eq_of_lt hv,
    mul_comm a, Nat.mul_add_div (by positivity), Nat.div_eq_of_lt hv]
  ring_nf

/-- A field of a number lies in its low bits. -/
theorem low_bits_field {a m k t : Nat} (h : k + t ≤ m) : a % 2 ^ m / 2 ^ k % 2 ^ t = a / 2 ^ k % 2 ^ t := by
  obtain ⟨r, rfl⟩ := Nat.exists_eq_add_of_le h
  rw [add_assoc, pow_add 2 k, Nat.mod_mul_right_div_self, Nat.mod_mod_of_dvd _ (pow_dvd_pow 2 (by omega))]

/-! ### The emit loop with few bits -/

theorem emitLoop_one {d : Dir} {acc : RgAcc} {fuel k : Nat} (hk : k < toBits d) (hfuel : 0 < fuel) :
    (emitLoop d acc fuel (k + toBits d)).1 = [outValue d (acc >>> k)] := by
  obtain ⟨fuel, rfl⟩ := Nat.exists_eq_succ_of_ne_zero hfuel.ne'
  rw [emitLoop_turn (by omega), Nat.add_sub_cancel, emitLoop_done hk]

theorem emitLoop_two {d : Dir} {acc : RgAcc} {fuel k : Nat} (hk : k < toBits d) (hfuel : 1 < fuel) :
    (emitLoop d acc fuel (k + toBits d + toBits d)).1 =
      [outValue d (acc >>> (k + toBits d)), outValue d (acc >>> k)] := by
  obtain ⟨fuel, rfl⟩ := Nat.exists_eq_succ_of_ne_zero (by omega : fuel ≠ 0)
  rw [emitLoop_turn (by omega), Nat.add_sub_cancel, emitLoop_one hk (by omega)]

/-! ### `RG_PUSH` and `RG_FLUSH` -/

/-- What a push writes: the input shifted in, the count left, and the loop's outputs packed (R103, R106). -/
theorem pushValue_eq {d : Dir} {s : State} {v : Byte} (hd : s.rgDir = d) (hv : v.toNat < 2 ^ fromBits d) :
    pushValue v s = { s with
      rgAcc := BitVec.ofNat 12 (s.rgAcc.toNat * 2 ^ fromBits d + v.toNat)
      rgCnt := BitVec.ofNat 4 ((s.rgCnt.toNat + fromBits d) % toBits d)
      result := packOutputs (emitLoop d (BitVec.ofNat 12 (s.rgAcc.toNat * 2 ^ fromBits d + v.toNat))
        (s.rgCnt.toNat + fromBits d) (s.rgCnt.toNat + fromBits d)).1 } := by
  subst hd
  have hacc : shiftIn s.rgDir s.rgAcc v = BitVec.ofNat 12 (s.rgAcc.toNat * 2 ^ fromBits s.rgDir + v.toNat) :=
    BitVec.eq_of_toNat_eq (toNat_shiftIn (Nat.mod_eq_of_lt s.rgAcc.isLt).symm hv)
  simp only [pushValue, hacc, (emitLoop_counts s.rgDir _ _ _ (Nat.le_refl _)).1]
  rfl

/-- Field `k` of the accumulator is the output the loop takes there. -/
theorem toNat_outValue_ofNat {d : Dir} {a k : Nat} (hk : k + toBits d ≤ 12) :
    (outValue d (BitVec.ofNat 12 a >>> k)).toNat = a / 2 ^ k % 2 ^ toBits d :=
  toNat_outValue_shift (BitVec.toNat_ofNat ..) hk

/-- In 8 -> 5 the loop packs one word with at most one bit pending before the push, and two with two to four. -/
theorem packOutputs_emitLoop_to5 {a cnt : Nat} (h : cnt ≤ 4) :
    packOutputs (emitLoop .to5 (BitVec.ofNat 12 a) (cnt + 8) (cnt + 8)).1 =
      BitVec.ofNat 32 ((cnt + 8) / 5 * 2 ^ 16 + (if (cnt + 8) / 5 = 2 then a / 2 ^ (cnt - 2) % 2 ^ 5 * 2 ^ 8 else 0) +
        a / 2 ^ (cnt + 3) % 2 ^ 5) := by
  have hfirst : (outValue .to5 (BitVec.ofNat 12 a >>> (cnt + 3))).toNat = a / 2 ^ (cnt + 3) % 2 ^ 5 :=
    toNat_outValue_ofNat (show cnt + 3 + 5 ≤ 12 by omega)
  rcases Nat.lt_or_ge cnt 2 with hc | hc
  · have hn : (cnt + 8) / 5 = 1 := by omega
    have houts : (emitLoop .to5 (BitVec.ofNat 12 a) (cnt + 8) (cnt + 8)).1 =
        [outValue .to5 (BitVec.ofNat 12 a >>> (cnt + 3))] :=
      emitLoop_one (show cnt + 3 < 5 by omega) (by omega)
    rw [houts, packOutputs_eq (by simp), hn]
    simp [hfirst]
  · obtain ⟨k, rfl⟩ := Nat.exists_eq_add_of_le' hc
    have hn : (k + 2 + 8) / 5 = 2 := by omega
    have hsecond : (outValue .to5 (BitVec.ofNat 12 a >>> k)).toNat = a / 2 ^ k % 2 ^ 5 :=
      toNat_outValue_ofNat (show k + 5 ≤ 12 by omega)
    have houts : (emitLoop .to5 (BitVec.ofNat 12 a) (k + 2 + 8) (k + 2 + 8)).1 =
        [outValue .to5 (BitVec.ofNat 12 a >>> (k + 2 + 3)), outValue .to5 (BitVec.ofNat 12 a >>> k)] :=
      emitLoop_two (show k < 5 by omega) (by omega)
    rw [houts, packOutputs_eq (by simp), hn]
    simp [hfirst, hsecond]

/-- In 5 -> 8 the loop packs one byte once three bits were pending before the push. -/
theorem packOutputs_emitLoop_to8 {a cnt : Nat} (h : cnt ≤ 7) :
    packOutputs (emitLoop .to8 (BitVec.ofNat 12 a) (cnt + 5) (cnt + 5)).1 =
      BitVec.ofNat 32 ((cnt + 5) / 8 * 2 ^ 16 + (if (cnt + 5) / 8 = 1 then a / 2 ^ (cnt - 3) % 2 ^ 8 else 0)) := by
  rcases Nat.lt_or_ge cnt 3 with hc | hc
  · have hn : (cnt + 5) / 8 = 0 := by omega
    rw [emitLoop_done (show cnt + 5 < 8 by omega), packOutputs_nil, hn]
    simp
  · obtain ⟨k, rfl⟩ := Nat.exists_eq_add_of_le' hc
    have hn : (k + 3 + 5) / 8 = 1 := by omega
    have hfirst : (outValue .to8 (BitVec.ofNat 12 a >>> k)).toNat = a / 2 ^ k % 2 ^ 8 :=
      toNat_outValue_ofNat (show k + 8 ≤ 12 by omega)
    have houts : (emitLoop .to8 (BitVec.ofNat 12 a) (k + 3 + 5) (k + 3 + 5)).1 =
        [outValue .to8 (BitVec.ofNat 12 a >>> k)] :=
      emitLoop_one (show k < 8 by omega) (by omega)
    rw [houts, packOutputs_eq (by simp), hn]
    simp [hfirst]

/-- Settles O20: the accumulator after the push has the pending bits and the byte as its low bits, and the packed words
are fields of these. -/
theorem rgPushOfAByteEmitsTheTopWords : Obligations.RgPushOfAByteEmitsTheTopWords := by
  intro s imm hd hcnt cnt pend n
  have hv : imm.toNat < 2 ^ fromBits .to5 := imm.isLt
  have hpend : pend = (s.rgAcc.toNat * 2 ^ 8 + imm.toNat) % 2 ^ (cnt + 8) := pending_then_input imm.isLt
  have hfirst : pend / 2 ^ (cnt + 3) % 2 ^ 5 = (s.rgAcc.toNat * 2 ^ 8 + imm.toNat) / 2 ^ (cnt + 3) % 2 ^ 5 :=
    hpend ▸ low_bits_field (by omega)
  have hsecond : pend / 2 ^ (cnt - 2) % 2 ^ 5 = (s.rgAcc.toNat * 2 ^ 8 + imm.toNat) / 2 ^ (cnt - 2) % 2 ^ 5 :=
    hpend ▸ low_bits_field (by omega)
  rw [exec_rgPush_ok (hd ▸ hv), pushValue_eq hd hv, show fromBits .to5 = 8 from rfl, packOutputs_emitLoop_to5 hcnt,
    hfirst, hsecond]
  rfl

/-- Settles O21: the accumulator after the push has the pending bits and the word as its low bits, and the packed byte
is their top field; a larger operand only raises the error. -/
theorem rgPushOfAWordEmitsTheTopByte : Obligations.RgPushOfAWordEmitsTheTopByte := by
  intro s imm hd
  constructor
  · intro hcnt himm cnt pend n
    have hv : imm.toNat < 2 ^ 5 := Nat.lt_succ_of_le himm
    have htop : n = 1 → pend / 2 ^ (cnt - 3) = (s.rgAcc.toNat * 2 ^ 5 + imm.toNat) / 2 ^ (cnt - 3) % 2 ^ 8 := by
      intro hn
      have hbits : cnt + 5 = (cnt - 3) + 8 := by omega
      rw [show pend = _ from pending_then_input hv, hbits, pow_add, Nat.mod_mul_right_div_self]
    rw [exec_rgPush_ok (hd ▸ hv), pushValue_eq hd hv, show fromBits .to8 = 5 from rfl, packOutputs_emitLoop_to8 hcnt,
      ite_congr (c := n = 1) rfl htop fun _ => rfl]
    rfl
  · intro himm
    exact ⟨_, exec_rgPush_bad (hd ▸ himm), raiseErr_records .operandRange 0x11 s, raiseErr_sameButRecord ..⟩

/-- The pending bits moved to the high end of an output (R108). -/
theorem toNat_outValue_pad {d : Dir} {a : RgAcc} {cnt : Nat} (h : cnt < toBits d) :
    (outValue d (a <<< (toBits d - cnt))).toNat = a.toNat % 2 ^ cnt * 2 ^ (toBits d - cnt) := by
  have h12 : toBits d ≤ 12 := by cases d <;> decide
  have hbits : 2 ^ toBits d = 2 ^ cnt * 2 ^ (toBits d - cnt) := by rw [← pow_add]; congr 1; omega
  rw [toNat_outValue, BitVec.toNat_shiftLeft, Nat.shiftLeft_eq, Nat.mod_mod_of_dvd _ (pow_dvd_pow 2 h12), hbits,
    Nat.mul_mod_mul_right]

/-- Settles O22: nothing is packed if no bit is pending, else the padded value alone. -/
theorem rgFlushPadsTheLeftover : Obligations.RgFlushPadsTheLeftover := by
  intro s hpad hinv
  have hresult : packOutputs (padOutputs s.rgDir s.rgAcc s.rgCnt.toNat) = if s.rgCnt = 0 then 0 else
      BitVec.ofNat 32 (2 ^ 16 + s.rgAcc.toNat % 2 ^ s.rgCnt.toNat * 2 ^ (toBits s.rgDir - s.rgCnt.toNat)) := by
    by_cases hzero : s.rgCnt = 0
    · rw [if_pos hzero, padOutputs, if_neg (by simp [hzero]), packOutputs_nil]
    · have hpos : 0 < s.rgCnt.toNat := Nat.pos_of_ne_zero fun h => hzero (BitVec.eq_of_toNat_eq h)
      rw [if_neg hzero, padOutputs, if_pos hpos, packOutputs_eq (by simp)]
      simp [toNat_outValue_pad hinv]
  rw [exec_rgFlush_pad hpad, hresult]
  rfl

/-! ### Reset and the tables -/

/-- The offsets of `GEN[0..4]` and `CONST` read constants (R32, R33, R51). -/
theorem regRead_constant {off : Nat} (h : off ∈ [0x020, 0x024, 0x028, 0x02C, 0x030, 0x034]) (s t : State) :
    regRead off t = regRead off s := by
  simp only [List.mem_cons, List.not_mem_nil, or_false] at h
  rcases h with rfl | rfl | rfl | rfl | rfl | rfl <;> rfl

theorem statusWord_resetCore (s : State) : statusWord (resetCore s) = 0 := by
  simp [statusWord]

theorem rgstateWord_resetCore (s : State) : rgstateWord (resetCore s) = 0x02000000 := by
  simp [rgstateWord, Dir.bit]

/-- Settles O1: the state after reset is a reset of itself, and each reset is `resetCore` of some state. -/
theorem resetLoadsTheSpecValues : Obligations.ResetLoadsTheSpecValues := by
  unfold Obligations.ResetLoadsTheSpecValues
  intro atReset
  have hreset : ∀ s, atReset (resetCore s) := fun s =>
    ⟨rfl, rfl, rfl, rfl, rfl, rfl, rfl, rfl, rfl, rfl, rfl, statusWord_resetCore s, rgstateWord_resetCore s⟩
  refine ⟨hreset State.reset, fun s rest =>
    ⟨⟨resetCore (s.setPending rest), ?_, hreset _, ?_⟩, resetCore s, rfl, hreset _, ?_⟩⟩
  · exact step_cons (s := { s with pending := .reset :: rest }) rfl
  · exact fun off h => regRead_constant h ..
  · exact fun off h => regRead_constant h ..

/-- `INV_ROM` inverts `CHARSET_ROM` on the words. -/
theorem invRom_charsetRom (i : Word) : invRom (charsetRom i) = i.setWidth 8 := by
  revert i
  decide

/-- Outside the charset `INV_ROM` holds the mark. -/
theorem invRom_of_not_mem {c : Byte} (h : c ∉ charsetTable) : invRom c = invalidMark := by
  have hmem : c.toNat ∉ charsetTable.map BitVec.toNat := by
    simpa [List.mem_map, BitVec.toNat_inj] using h
  rw [invRom_eq_charIndex, charIndex, List.idxOf?_eq_none_iff.mpr hmem]
  rfl

/-- A code is the character of some word, or `INV_ROM` holds the mark for it. -/
theorem charsetRom_or_mark (c : Byte) : (∃ i, charsetRom i = c) ∨ invRom c = invalidMark := by
  by_cases hc : c ∈ charsetTable
  · have hchars : ∀ c ∈ charsetTable, ∃ i, charsetRom i = c := by decide
    exact .inl (hchars c hc)
  · exact .inr (invRom_of_not_mem hc)

/-- Settles O41: every code is the character of some word, and then listed, or `INV_ROM` holds the mark for it. -/
theorem invRomHoldsTheListedEntries : Obligations.InvRomHoldsTheListedEntries := by
  unfold Obligations.InvRomHoldsTheListedEntries
  intro listed
  have hwords : ∀ i, charsetRom i ∈ listed.map Prod.fst := by decide
  have hentries : listed.all fun e => invRom e.1 = e.2 := by decide
  refine ⟨?_, ?_, rfl, fun c hc => ?_, fun c => ?_⟩
  · rintro i _ rfl
    exact invRom_charsetRom i
  · simpa only [List.all_eq_true, decide_eq_true_eq] using hentries
  · obtain ⟨i, rfl⟩ | h := charsetRom_or_mark c
    · exact absurd (hwords i) hc
    · exact h
  · obtain ⟨i, rfl⟩ | h := charsetRom_or_mark c
    · rw [invRom_charsetRom]
      exact .inr ⟨wordImm_le i, congrArg charsetRom (setWidth_wordImm i)⟩
    · exact .inl h

end Sys2Proof.Machine

/-! SUPPORT. The statements of 20_memory.md: the accesses of the window (O8, O10, O12 to O15), the order of the checksum
words (O33), and the stream of the regrouper as one bitstream (O52, O53). -/

namespace Sys2Proof.Machine

open Sys2Proof.Safety

/-! ### The window -/

/-- An offset of no register reads 0 (R51). -/
theorem regRead_reserved {off : Nat} (h : ∀ r, off ≠ regOffset r) (s : State) : regRead off s = 0 := by
  have hnone : allRegs.find? (fun r => regOffset r == off) = none :=
    List.find?_eq_none.mpr fun r _ hr => h r (beq_iff_eq.mp hr).symm
  rw [regRead, hnone]

/-- Settles O10: an offset is that of a named register, which is read, or of none of the twelve. -/
theorem windowReadsFollowTheMap : Obligations.WindowReadsFollowTheMap := by
  intro s off _ _
  by_cases h : ∃ r, off = regOffset r
  · obtain ⟨r, rfl⟩ := h
    rw [regRead_regOffset]
    cases r <;> rfl
  · have hne : ∀ r, off ≠ regOffset r := not_exists.mp h
    rw [regRead_reserved hne]
    have hnone : off ≠ 0x000 ∧ off ≠ 0x004 ∧ off ≠ 0x008 ∧ off ≠ 0x00C ∧ off ≠ 0x010 ∧ off ≠ 0x014 ∧
        off ≠ 0x020 ∧ off ≠ 0x024 ∧ off ≠ 0x028 ∧ off ≠ 0x02C ∧ off ≠ 0x030 ∧ off ≠ 0x034 :=
      ⟨hne .cmd, hne .status, hne .result, hne .acc, hne .cksum, hne .rgstate,
        hne .gen0, hne .gen1, hne .gen2, hne .gen3, hne .gen4, hne .const⟩
    simp only [hnone, if_false]

/-- An admitted read returns the register at its offset (R53). -/
theorem serve_read {s : State} {off : Nat} (h : off < 256) (h4 : off % 4 = 0) :
    serve (.read (s.b32Base + off) 32) s = .next (s.respond (regRead off s)) := by
  simp only [serve, admit_of_offset h h4]

/-- An admitted write is `RegWrite` at its offset (R54). -/
theorem serve_write {s : State} {off : Nat} (v : Reg) (h : off < 256) (h4 : off % 4 = 0) :
    serve (.write (s.b32Base + off) 32 v) s = regWrite off v s := by
  simp only [serve, admit_of_offset h h4]

/-- A step serves the head of the events placed before it. -/
theorem step_pending (s : State) (ev : HostEvent) (rest : List HostEvent) :
    step { s with pending := ev :: rest } = serve ev (s.setPending rest) :=
  step_cons (s := { s with pending := ev :: rest }) rfl

/-- Settles O12: a read only adds the register's value to the responses, which no register depends on. -/
theorem readsHaveNoSideEffect : Obligations.ReadsHaveNoSideEffect := by
  intro s off rest h h4
  refine ⟨?_, rfl⟩
  rw [step_pending]
  exact serve_read (s := s.setPending rest) h h4

/-- Settles O13: the write is admitted, and `RegWrite` does at its offset what R54 says. -/
theorem onlyCmdWritesHaveAnEffect : Obligations.OnlyCmdWritesHaveAnEffect := by
  intro s off v rest h h4
  rw [step_pending]
  exact serve_write (s := s.setPending rest) v h h4

/-- `Execute(w)` always answers a next state (R225). -/
theorem execute_next (w : Reg) (s : State) : ∃ t, execute w s = .next t := by
  cases hd : decode w with
  | ok i =>
    obtain ⟨t, ht, -⟩ := exec_next i s
    exact ⟨t, (execute_ok hd).trans ht⟩
  | error r => exact ⟨_, execute_error hd⟩

theorem regWrite_next (off : Nat) (v : Reg) (s : State) : ∃ t, regWrite off v s = .next t := by
  unfold regWrite
  split
  · exact execute_next v s
  · exact ⟨s, rfl⟩

/-- Every access but those of R52 has an error. -/
theorem admittedOffset_error {base addr bits : Nat}
    (h : ¬ (bits = 32 ∧ ∃ off, addr = base + off ∧ off % 4 = 0 ∧ off ≤ 0x0FC)) :
    ∃ r, admittedOffset base addr bits = .error r := by
  cases hoff : admittedOffset base addr bits with
  | error r => exact ⟨r, rfl⟩
  | ok off =>
    obtain ⟨hbits, haddr, hlt, h4⟩ := offset_of_admit hoff
    exact absurd ⟨hbits, off, haddr, h4, by omega⟩ h

theorem serve_refused {s : State} {addr bits : Nat} {r : Refusal} (h : admittedOffset s.b32Base addr bits = .error r)
    (v : Reg) : serve (.read addr bits) s = .refused r ∧ serve (.write addr bits v) s = .refused r := by
  simp only [serve, h, and_self]

/-- Settles O14: an admitted access is served at its offset, where a read and a write always answer; every other one has
no offset. -/
theorem unadmittedAccessesAreRefused : Obligations.UnadmittedAccessesAreRefused := by
  intro s addr bits v rest admitted
  rw [step_pending, step_pending]
  constructor
  · rintro ⟨rfl, off, rfl, h4, hle⟩
    have hlt : off < 256 := by omega
    refine ⟨⟨_, serve_read (s := s.setPending rest) hlt h4⟩, ?_⟩
    obtain ⟨t, ht⟩ := regWrite_next off v (s.setPending rest)
    exact ⟨t, (serve_write (s := s.setPending rest) v hlt h4).trans ht⟩
  · intro h
    obtain ⟨r, hr⟩ := admittedOffset_error h
    obtain ⟨hread, hwrite⟩ := serve_refused (s := s.setPending rest) hr v
    exact ⟨⟨r, hread⟩, r, hwrite⟩

/-- Settles O15: with no event to come the state stays; else the head of the list is served. -/
theorem stepServesOneEventInOrder : Obligations.StepServesOneEventInOrder := by
  intro s t h
  cases hp : s.pending with
  | nil =>
    simp only [step, serveNext, hp] at h
    cases h
    exact ⟨rfl, hp, [], rfl, Nat.zero_le 1⟩
  | cons ev rest =>
    rw [step_cons hp] at h
    obtain ⟨hbase, hpending, hresponses⟩ := serve_next h
    refine ⟨hbase, hpending, ?_⟩
    obtain hnone | ⟨v, hv⟩ := hresponses
    · exact ⟨[], hnone, Nat.zero_le 1⟩
    · exact ⟨[v], hv, Nat.le_refl 1⟩

/-- A step whose next event is the write of `w` to `CMD` is `Execute(w)` (R54, R57). -/
theorem step_cmdWrite {s : State} {w : Reg} {rest : List HostEvent} (h : s.pending = cmdWrite s.b32Base w :: rest) :
    step s = execute w (s.setPending rest) :=
  (step_cons h).trans (serve_cmdWrite w (s.setPending rest))

/-- Settles O8: the step is `Execute(w)`, and `withFetchWord` puts the write of `w` first and takes nothing away. -/
theorem stepRunsTheWrittenCommand : Obligations.StepRunsTheWrittenCommand := by
  refine ⟨fun s w rest hp => ⟨fun i hd => ?_, fun r hd => ?_⟩, fun s w i hd => ?_⟩
  · exact (step_cmdWrite hp).trans (execute_ok hd)
  · exact ⟨_, (step_cmdWrite hp).trans (execute_error hd), raiseErr_records .illegalCmd _ _,
      raiseErr_sameButRecord ..⟩
  · have hw : BitVec.ofNat 32 (w.toNat % 2 ^ 32) = w := by
      rw [Nat.mod_eq_of_lt w.isLt, BitVec.ofNat_toNat, BitVec.setWidth_eq]
    rw [State.withFetchWord, hw]
    exact (step_cmdWrite (s := putCmdWrite w s) rfl).trans (execute_ok hd)

/-! ### The checksum words -/

/-- Word `i` of a residue as a number (R59). -/
theorem toNat_checksumWord (r : Residue) (i : Nat) :
    (checksumWord r i).toNat = r.toNat / 2 ^ (5 * (5 - i)) % 2 ^ 5 := by
  rw [checksumWord, BitVec.toNat_setWidth, BitVec.toNat_ushiftRight, Nat.shiftRight_eq_div_pow]

/-- Settles O33: word `i` is digit `5 - i` of the residue in base 32. -/
theorem checksumWordsRebuildTheResidue : Obligations.ChecksumWordsRebuildTheResidue := by
  intro r
  have hr := r.isLt
  simp only [toNat_checksumWord, List.range_succ, List.range_zero, List.map_append, List.map_cons, List.map_nil,
    List.nil_append, List.sum_append, List.sum_cons, List.sum_nil]
  omega

/-! ### Bits, most significant first -/

@[simp] theorem length_bitsMsb (n v : Nat) : (bitsMsb n v).length = n := by simp [bitsMsb]

@[simp] theorem length_bitstream (n : Nat) (vs : List Nat) : (bitstream n vs).length = n * vs.length := by
  induction vs with
  | nil => rfl
  | cons v vs ih =>
    simp only [bitstream, List.flatMap_cons, List.length_append, length_bitsMsb, List.length_cons] at ih ⊢
    rw [ih, Nat.mul_succ, Nat.add_comm]

theorem bitstream_append (n : Nat) (us vs : List Nat) : bitstream n (us ++ vs) = bitstream n us ++ bitstream n vs :=
  List.flatMap_append

/-- Only the low `n` bits of a number are looked at. -/
@[simp] theorem bitsMsb_mod (n v : Nat) : bitsMsb n (v % 2 ^ n) = bitsMsb n v := by
  refine List.map_congr_left fun k hk => ?_
  have hk : k < n := List.mem_range.mp hk
  rw [Nat.testBit_mod_two_pow, decide_eq_true (by omega), Bool.true_and]

/-- The high bits come first. -/
theorem bitsMsb_add (m n v : Nat) : bitsMsb (m + n) v = bitsMsb m (v / 2 ^ n) ++ bitsMsb n v := by
  simp only [bitsMsb, List.range_add, List.map_append, List.map_map]
  congr 1
  · refine List.map_congr_left fun k hk => ?_
    have hk : k < m := List.mem_range.mp hk
    rw [Nat.testBit_div_two_pow]
    congr 1
    omega
  · refine List.map_congr_left fun k _ => ?_
    rw [Function.comp_apply]
    congr 1
    omega

/-- A value shifted in below a number comes after the bits of the number. -/
theorem bitsMsb_shiftIn {n v : Nat} (m a : Nat) (hv : v < 2 ^ n) :
    bitsMsb (m + n) (a * 2 ^ n + v) = bitsMsb m a ++ bitsMsb n v := by
  have hhigh : (a * 2 ^ n + v) / 2 ^ n = a := by
    rw [Nat.mul_comm, Nat.mul_add_div (by positivity), Nat.div_eq_of_lt hv, Nat.add_zero]
  rw [bitsMsb_add, hhigh, ← bitsMsb_mod n (a * 2 ^ n + v), Nat.mul_add_mod_self_right, bitsMsb_mod]

@[simp] theorem bitsMsb_zero_right (n : Nat) : bitsMsb n 0 = List.replicate n false := by
  simp [bitsMsb, List.map_const']

/-- A set bit is found exactly when the low `n` bits are not all zero. -/
theorem true_mem_bitsMsb {n v : Nat} : true ∈ bitsMsb n v ↔ v % 2 ^ n ≠ 0 := by
  constructor
  · intro h hzero
    rw [← bitsMsb_mod, hzero, bitsMsb_zero_right] at h
    exact absurd (List.eq_of_mem_replicate h) (by decide)
  · intro h
    obtain ⟨i, hi⟩ := Nat.exists_testBit_of_ne_zero h
    rw [Nat.testBit_mod_two_pow, Bool.and_eq_true, decide_eq_true_eq] at hi
    obtain ⟨hlt, hbit⟩ := hi
    refine List.mem_map.mpr ⟨n - 1 - i, List.mem_range.mpr (by omega), ?_⟩
    rw [← hbit]
    congr 1
    omega

/-! ### regroup keeps the bitstream -/

/-- The emit loop cuts the pending bits into outputs and a rest (R103). -/
theorem regroupEmit_bits {tw acc fuel cnt : Nat} :
    bitsMsb cnt acc =
      bitstream tw (regroupEmit tw acc fuel cnt).1 ++ bitsMsb (regroupEmit tw acc fuel cnt).2 acc := by
  induction fuel generalizing cnt with
  | zero => rfl
  | succ fuel ih =>
    by_cases h : cnt < tw
    · simp only [regroupEmit, h, if_true]
      rfl
    · obtain ⟨k, rfl⟩ := Nat.exists_eq_add_of_le (Nat.not_lt.mp h)
      simp only [regroupEmit, h, if_false, Nat.add_sub_cancel_left, bitsMsb_add tw k, bitstream, List.flatMap_cons,
        bitsMsb_mod, List.append_assoc]
      exact congrArg _ ih

/-- With enough fuel the emit loop leaves less than one output. -/
theorem regroupEmit_count_lt {tw acc fuel cnt : Nat} (htw : 0 < tw) (hfuel : cnt ≤ fuel) :
    (regroupEmit tw acc fuel cnt).2 < tw := by
  induction fuel generalizing cnt with
  | zero => exact hfuel.trans_lt htw
  | succ fuel ih =>
    by_cases h : cnt < tw
    · simp only [regroupEmit, h, if_true]
    · simp only [regroupEmit, h, if_false]
      exact ih (by omega)

/-- The main loop cuts the pending bits and the input into outputs and a rest (R58). -/
theorem regroupLoop_bits {fw tw : Nat} {data : List Nat} (hdata : ∀ v ∈ data, v < 2 ^ fw) (acc cnt : Nat) :
    let out := regroupLoop fw tw data acc cnt
    bitsMsb cnt acc ++ bitstream fw data = bitstream tw out.1 ++ bitsMsb out.2.2 out.2.1 := by
  induction data generalizing acc cnt with
  | nil => exact List.append_nil _
  | cons v data ih =>
    have hrest := ih (fun w hw => hdata w (List.mem_cons_of_mem v hw))
    have hv : v < 2 ^ fw := hdata v List.mem_cons_self
    intro out
    rw [show bitstream fw (v :: data) = bitsMsb fw v ++ bitstream fw data from rfl, ← List.append_assoc,
      ← bitsMsb_shiftIn cnt acc hv, regroupEmit_bits (tw := tw) (fuel := cnt + fw), List.append_assoc, hrest,
      ← List.append_assoc, ← bitstream_append]
    rfl

theorem regroupLoop_count_lt {fw tw : Nat} (htw : 0 < tw) (data : List Nat) {acc cnt : Nat} (hcnt : cnt < tw) :
    (regroupLoop fw tw data acc cnt).2.2 < tw := by
  induction data generalizing acc cnt with
  | nil => exact hcnt
  | cons v data ih => exact ih (regroupEmit_count_lt htw (Nat.le_refl _))

/-- With padding regroup's outputs are the input continued by fewer than `tw` zero bits (R58, R108). -/
theorem regroup_pad_bitstream {fw tw : Nat} {data : List Nat} (htw : 0 < tw) (hdata : ∀ v ∈ data, v < 2 ^ fw) :
    ∃ k, k < tw ∧ bitstream tw (regroup fw tw true data).1 = bitstream fw data ++ List.replicate k false := by
  have hbits := regroupLoop_bits (tw := tw) hdata 0 0
  have hlt := regroupLoop_count_lt (fw := fw) htw data (acc := 0) htw
  unfold regroup
  generalize regroupLoop fw tw data 0 0 = out at hbits hlt
  obtain ⟨outs, acc, cnt⟩ := out
  replace hbits : bitstream fw data = bitstream tw outs ++ bitsMsb cnt acc := hbits
  replace hlt : cnt < tw := hlt
  rw [hbits]
  rcases Nat.eq_zero_or_pos cnt with rfl | hpos
  · exact ⟨0, htw, by simp [bitstream, bitsMsb]⟩
  · obtain ⟨k, rfl⟩ := Nat.exists_eq_add_of_lt hlt
    have hlast : bitsMsb (cnt + k + 1) (acc * 2 ^ (k + 1)) = bitsMsb cnt acc ++ List.replicate (k + 1) false := by
      rw [← bitsMsb_zero_right]
      exact bitsMsb_shiftIn cnt acc (by positivity)
    refine ⟨k + 1, by omega, ?_⟩
    simp only [if_true, hpos, bitstream_append, show cnt + k + 1 - cnt = k + 1 by omega, List.append_assoc]
    rw [← hlast, ← bitsMsb_mod]
    exact congrArg _ (List.append_nil _)

/-- Without padding the input is regroup's outputs and fewer than `tw` bits left out, and regroup reports its error
exactly when these hold a whole input value or a bit that is 1 (R58, R109). -/
theorem regroup_bitstream {fw tw : Nat} {data : List Nat} (htw : 0 < tw) (hdata : ∀ v ∈ data, v < 2 ^ fw) :
    ∃ left, left.length < tw ∧ bitstream fw data = bitstream tw (regroup fw tw false data).1 ++ left ∧
      ((regroup fw tw false data).2 = true ↔ fw ≤ left.length ∨ true ∈ left) := by
  refine ⟨_, ?_, regroupLoop_bits hdata 0 0, ?_⟩
  · rw [length_bitsMsb]
    exact regroupLoop_count_lt htw data htw
  · rw [length_bitsMsb, true_mem_bitsMsb]
    simp [regroup]

/-! ### A stream of commands -/

/-- The error record, and the note of R236 beside it, are the same. -/
structure KeepsRecord (s t : State) : Prop where
  err_eq : t.err = s.err
  errOp_eq : t.errOp = s.errOp
  ovf_eq : t.ovf = s.ovf
  hostFault_eq : t.hostFault = s.hostFault

theorem KeepsRecord.trans {s t u : State} (h : KeepsRecord s t) (h' : KeepsRecord t u) : KeepsRecord s u :=
  ⟨h'.err_eq.trans h.err_eq, h'.errOp_eq.trans h.errOp_eq, h'.ovf_eq.trans h.ovf_eq,
    h'.hostFault_eq.trans h.hostFault_eq⟩

/-- What is recorded from `t` on is recorded from any state with the same record. -/
theorem KeepsRecord.records {s t u : State} {code : BitVec 4} {op : Byte} (h : KeepsRecord s t)
    (h' : Records code op t u) : Records code op s u := by
  obtain ⟨herr, herrOp, hovf, -⟩ := h
  rwa [Records, herr, herrOp, hovf] at h'

/-- One command of a stream, and its outputs. -/
theorem runStream_singleton {i : Instr} {s t : State} (h : exec i s = .next t) :
    runStream [i] s = .next (t, bothOutputs t.result) := by
  simp [runStream, h]

/-- The pushes of a stream give regroup's outputs, keep the record and leave regroup's pending bits (R103, R110). -/
theorem StreamHolds.runStream_pushes {d : Dir} {pad : Bool} {data : List Byte}
    (hdata : ∀ v ∈ data, v.toNat < 2 ^ fromBits d) {acc cnt : Nat} {s : State} (h : StreamHolds d pad acc cnt s) :
    let out := regroupLoop (fromBits d) (toBits d) (data.map BitVec.toNat) acc cnt
    ∃ t outs, runStream (data.map .rgPush) s = .next (t, outs) ∧ outs.map BitVec.toNat = out.1 ∧
      StreamHolds d pad out.2.1 out.2.2 t ∧ KeepsRecord s t := by
  induction data generalizing acc cnt s with
  | nil => exact ⟨s, [], rfl, rfl, h, rfl, rfl, rfl, rfl⟩
  | cons v data ih =>
    obtain ⟨hpush, hout, hnext⟩ := h.push (hdata v List.mem_cons_self)
    obtain ⟨t, outs, hrun, houts, ht, hkeeps⟩ := ih (fun w hw => hdata w (List.mem_cons_of_mem v hw)) hnext
    have hkept : KeepsRecord s (pushValue v s) := ⟨rfl, rfl, rfl, rfl⟩
    refine ⟨t, _, runStream_append (runStream_singleton hpush) hrun, ?_, ht, hkept.trans hkeeps⟩
    rw [List.map_append, hout, houts]
    rfl

/-- The mask of R109 looks at the pending bits. -/
theorem toNat_and_lowMask_count {a : RgAcc} {acc cnt : Nat} (ha : a.toNat = acc % 2 ^ 12) (h : cnt ≤ 12) :
    (a &&& lowMask cnt).toNat = acc % 2 ^ cnt := by
  have hle : 2 ^ cnt ≤ 2 ^ 12 := Nat.pow_le_pow_right (by decide) h
  have hmask : (lowMask cnt).toNat = 2 ^ cnt - 1 := Nat.mod_eq_of_lt (by have := Nat.two_pow_pos cnt; omega)
  rw [BitVec.toNat_and, hmask, Nat.and_two_pow_sub_one_eq_mod, ha, Nat.mod_mod_of_dvd _ (pow_dvd_pow 2 h)]

/-- The core finds the leftover bad exactly when regroup reports its error (R109). -/
theorem StreamHolds.leftoverBad_eq {d : Dir} {pad : Bool} {acc cnt : Nat} {s : State}
    (h : StreamHolds d pad acc cnt s) :
    leftoverBad s.rgDir s.rgAcc s.rgCnt.toNat = (decide (fromBits d ≤ cnt) || decide (acc % 2 ^ cnt ≠ 0)) := by
  obtain ⟨rfl, -, hacc, rfl, hlt⟩ := h
  have h12 : s.rgCnt.toNat ≤ 12 := (Nat.le_add_right _ _).trans (cnt_add_fromBits_le hlt)
  have hmask := toNat_and_lowMask_count hacc h12
  have hzero : s.rgAcc &&& lowMask s.rgCnt.toNat = 0 ↔ acc % 2 ^ s.rgCnt.toNat = 0 := by
    rw [← hmask, ← BitVec.toNat_inj]
    rfl
  simp only [leftoverBad, bne, hzero, Bool.beq_eq_decide_eq, decide_not]

theorem bothOutputs_zero : bothOutputs 0 = [] := bothOutputs_pack (outs := []) (Nat.zero_le 2)

/-- The flush without padding gives no output and records `NONZERO_PADDING` when the leftover is bad (R109). -/
theorem StreamHolds.flush_check {d : Dir} {acc cnt : Nat} {s : State} (h : StreamHolds d false acc cnt s) :
    let bad := decide (fromBits d ≤ cnt) || decide (acc % 2 ^ cnt ≠ 0)
    ∃ t, exec .rgFlush s = .next t ∧ bothOutputs t.result = [] ∧
      (bad = false → KeepsRecord s t) ∧ (bad = true → Records 6 0x12 s t) := by
  intro bad
  have hbad : leftoverBad s.rgDir s.rgAcc s.rgCnt.toNat = bad := h.leftoverBad_eq
  cases hb : bad with
  | false =>
    rw [hb] at hbad
    exact ⟨_, exec_rgFlush_clean h.pad_eq hbad, bothOutputs_zero, fun _ => ⟨rfl, rfl, rfl, rfl⟩, nofun⟩
  | true =>
    rw [hb] at hbad
    refine ⟨_, exec_rgFlush_bad h.pad_eq hbad, ?_, nofun, fun _ => ?_⟩
    · rw [raiseErr_result]
      exact bothOutputs_zero
    · exact raiseErr_records .nonzeroPadding 0x12 ((s.setStream 0 0).setResult 0)

/-- The flush with padding records nothing (R107). -/
theorem exec_rgFlush_pad_keepsRecord {s t : State} (hpad : s.rgPad = true) (h : exec .rgFlush s = .next t) :
    KeepsRecord s t := by
  cases h.symm.trans (exec_rgFlush_pad hpad)
  exact ⟨rfl, rfl, rfl, rfl⟩

/-- A stream from its opening on gives regroup's outputs and records an error exactly when regroup reports one (R110). -/
theorem StreamHolds.runStream_streamCmds {d : Dir} {pad : Bool} {data : List Byte}
    (hdata : ∀ v ∈ data, v.toNat < 2 ^ fromBits d) {s : State} (h : StreamHolds d pad 0 0 s) :
    let out := regroup (fromBits d) (toBits d) pad (data.map BitVec.toNat)
    ∃ t outs, runStream (streamCmds data) s = .next (t, outs) ∧ outs.map BitVec.toNat = out.1 ∧
      (out.2 = false → KeepsRecord s t) ∧ (out.2 = true → Records 6 0x12 s t) := by
  obtain ⟨t, outs, hpushes, houts, ht, hkept⟩ := h.runStream_pushes hdata
  cases pad with
  | true =>
    obtain ⟨u, hflush, hlast⟩ := ht.flush_pad
    refine ⟨u, _, runStream_append hpushes (runStream_singleton hflush), ?_, fun _ => ?_, nofun⟩
    · rw [List.map_append, houts, hlast]
      rfl
    · exact hkept.trans (exec_rgFlush_pad_keepsRecord ht.pad_eq hflush)
  | false =>
    obtain ⟨u, hflush, hnone, hclean, hbad⟩ := ht.flush_check
    refine ⟨u, _, runStream_append hpushes (runStream_singleton hflush), ?_, fun hf => ?_, fun hb => ?_⟩
    · rw [hnone, List.append_nil, houts]
      rfl
    · exact hkept.trans (hclean hf)
    · exact hkept.records (hbad hb)

/-- Values that fit, as numbers. -/
theorem toNat_lt_of_mem {n : Nat} {data : List Byte} (hdata : ∀ v ∈ data, v.toNat < 2 ^ n) :
    ∀ v ∈ data.map BitVec.toNat, v < 2 ^ n := by
  simpa using hdata

/-- `RG_INIT` opens a stream and records nothing (R105). -/
theorem exec_rgInit_opens (d : Dir) (pad : Bool) (s : State) :
    ∃ t, exec (.rgInit d pad) s = .next t ∧ StreamHolds d pad 0 0 t ∧ KeepsRecord s t := by
  obtain ⟨t, hinit, ht⟩ := exec_rgInit_holds d pad s
  cases hinit
  exact ⟨_, rfl, ht, rfl, rfl, rfl, rfl⟩

/-- With padding regroup gives as many values as hold the input bits (R110). -/
theorem length_regroup_pad {fw tw : Nat} {data : List Nat} (htw : 0 < tw) (hdata : ∀ v ∈ data, v < 2 ^ fw) :
    (regroup fw tw true data).1.length = (fw * data.length + (tw - 1)) / tw := by
  obtain ⟨k, hk, hbits⟩ := regroup_pad_bitstream htw hdata
  have hlen := congrArg List.length hbits
  rw [List.length_append, length_bitstream, length_bitstream, List.length_replicate, Nat.mul_comm tw] at hlen
  exact (Nat.div_eq_of_lt_le (by omega) (by rw [Nat.succ_mul]; omega)).symm

/-- Without padding regroup gives as many values as the input bits fill (R110). -/
theorem length_regroup {fw tw : Nat} {data : List Nat} (htw : 0 < tw) (hdata : ∀ v ∈ data, v < 2 ^ fw) :
    (regroup fw tw false data).1.length = fw * data.length / tw := by
  obtain ⟨left, hleft, hbits, -⟩ := regroup_bitstream htw hdata
  have hlen := congrArg List.length hbits
  rw [List.length_append, length_bitstream, length_bitstream, Nat.mul_comm tw] at hlen
  exact (Nat.div_eq_of_lt_le (by omega) (by rw [Nat.succ_mul]; omega)).symm

/-- Fewer bits than an input value are left out when outputs are narrower, so regroup's error is a bit of them that is 1
(R110). -/
theorem regroup_error_iff {fw tw : Nat} {data : List Nat} (htw : 0 < tw) (hle : tw ≤ fw)
    (hdata : ∀ v ∈ data, v < 2 ^ fw) :
    (regroup fw tw false data).2 = true ↔
      true ∈ (bitstream fw data).drop (fw * data.length - fw * data.length % tw) := by
  obtain ⟨left, hleft, hbits, herror⟩ := regroup_bitstream htw hdata
  have hcut : fw * data.length - fw * data.length % tw = (bitstream tw (regroup fw tw false data).1).length := by
    rw [length_bitstream, length_regroup htw hdata, ← Nat.mul_div_self_eq_mod_sub_self]
  rw [herror, hcut, hbits, List.drop_left, or_iff_right (by omega)]

/-- Settles O52: the registers of the stream hold the low bits of regroup's accumulator, so each command gives regroup's
outputs; the lengths and the error are read off the bitstream, which regroup keeps. -/
theorem streamComputesRegroup : Obligations.StreamComputesRegroup := by
  intro dir pad data s hdata
  obtain ⟨s', hinit, hopen, hkept⟩ := exec_rgInit_opens dir pad s
  obtain ⟨t, outs, hrun, houts, hclean, hbad⟩ := hopen.runStream_streamCmds hdata
  have hlt := toNat_lt_of_mem hdata
  have hlen : outs.length = (regroup (fromBits dir) (toBits dir) pad (data.map BitVec.toNat)).1.length := by
    rw [← houts, List.length_map]
  have hn : (data.map BitVec.toNat).length = data.length := List.length_map ..
  refine ⟨s', t, outs, hinit, hrun, houts, fun hf => ?_, fun hb => hkept.records (hbad hb), ?_, ?_, ?_, ?_⟩
  · obtain ⟨herr, herrOp, hovf, -⟩ := hkept.trans (hclean hf)
    exact ⟨herr, herrOp, hovf⟩
  · rintro rfl rfl
    rw [hlen, length_regroup_pad (toBits_pos _) hlt, hn]
    rfl
  · rintro rfl rfl -
    rw [hlen, length_regroup (toBits_pos _) hlt, hn]
    rfl
  · rintro rfl rfl
    rw [hlen, length_regroup (toBits_pos _) hlt, hn]
    refine ⟨rfl, ?_⟩
    rw [← hn]
    exact regroup_error_iff (toBits_pos .to5) (by decide) hlt
  · rintro rfl rfl
    rw [hlen, length_regroup_pad (toBits_pos _) hlt, hn]
    rfl

/-- Settles O53: the outputs of a stream are regroup's, and regroup keeps the bitstream. -/
theorem streamKeepsTheBitstream : Obligations.StreamKeepsTheBitstream := by
  intro dir pad data s s' t outs hdata hinit hrun input output
  obtain ⟨u, hinit', hopen, -⟩ := exec_rgInit_opens dir pad s
  cases hinit.symm.trans hinit'
  obtain ⟨v, outs', hrun', houts, -⟩ := hopen.runStream_streamCmds hdata
  cases hrun.symm.trans hrun'
  have hlt := toNat_lt_of_mem hdata
  simp only [input, output, houts]
  constructor
  · rintro rfl
    exact regroup_pad_bitstream (toBits_pos dir) hlt
  · rintro rfl
    obtain ⟨left, hleft, hbits, -⟩ := regroup_bitstream (toBits_pos dir) hlt
    exact ⟨left, hleft, hbits⟩

end Sys2Proof.Machine

/-! SUPPORT. The statements of 30_encoding.md: the fields of a word and of the rows (O2 to O7), the class P errors (O43)
and the assembler (O59, O60). -/

namespace Sys2Proof

/-! ### The fields of a word that matches a row -/

/-- A word is its four fields put together (R70). -/
theorem word_of_fields (w : Reg) : opField w ++ rsvdField w ++ fField w ++ immField w = w := by
  unfold opField rsvdField fField immField
  rw [BitVec.extractLsb'_append_extractLsb'_eq_extractLsb' (by rfl),
    BitVec.extractLsb'_append_extractLsb'_eq_extractLsb' (by rfl),
    BitVec.extractLsb'_append_extractLsb'_eq_extractLsb' (by rfl), BitVec.extractLsb'_eq_self]

/-- The match of a row has zeros beside the opcode (R73). -/
theorem fields_matchBits (o : Opcode) :
    rsvdField o.matchBits = 0#12 ∧ fField o.matchBits = 0 ∧ immField o.matchBits = 0 := by
  cases o <;> decide

/-- Every row fixes all of `RSVD` (R73, R75). -/
theorem rsvdField_mask (o : Opcode) : rsvdField o.mask = BitVec.allOnes 12 := by cases o <;> decide

/-- The bits of `F` that a row fixes: all but `DIR` and `PAD` of `RG_INIT` (R73, R75). -/
theorem fField_mask (o : Opcode) : fField o.mask = if o = .rgInit then 0b1100 else BitVec.allOnes 4 := by
  cases o <;> decide

/-- A row without an `IMM` operand fixes all of `IMM`, any other row nothing of it (R73, R75). -/
theorem immField_mask (o : Opcode) : immField o.mask = if o.shape = .imm then 0 else BitVec.allOnes 8 := by
  cases o <;> decide

section Match

variable {o : Opcode} {w : Reg} (h : w &&& o.mask = o.matchBits)

include h

/-- Field by field, a matching word has zeros where the row fixes the bits beside the opcode (R73, R75). -/
theorem fields_of_match : rsvdField w &&& rsvdField o.mask = 0#12 ∧ fField w &&& fField o.mask = 0 ∧
    immField w &&& immField o.mask = 0 := by
  obtain ⟨hrsvd, hf, himm⟩ := fields_matchBits o
  rw [← h] at hrsvd hf himm
  exact ⟨BitVec.extractLsb'_and.symm.trans hrsvd, BitVec.extractLsb'_and.symm.trans hf,
    BitVec.extractLsb'_and.symm.trans himm⟩

theorem rsvdField_of_match : rsvdField w = 0#12 := by
  obtain ⟨hrsvd, -, -⟩ := fields_of_match h
  rwa [rsvdField_mask, BitVec.and_allOnes] at hrsvd

theorem fField_eq_zero_of_match (ho : o ≠ .rgInit) : fField w = 0 := by
  obtain ⟨-, hf, -⟩ := fields_of_match h
  rwa [fField_mask, if_neg ho, BitVec.and_allOnes] at hf

theorem fField_of_match_rgInit (ho : o = .rgInit) : fField w &&& 0b1100 = 0 := by
  obtain ⟨-, hf, -⟩ := fields_of_match h
  rwa [fField_mask, if_pos ho] at hf

theorem immField_eq_zero_of_match (ho : o.shape ≠ .imm) : immField w = 0 := by
  obtain ⟨-, -, himm⟩ := fields_of_match h
  rwa [immField_mask, if_neg ho, BitVec.and_allOnes] at himm

end Match

/-! ### The round trip -/

/-- Settles O3: the word of a command matches the command's row, which builds the command back. -/
theorem decodeInvertsEncode : Obligations.DecodeInvertsEncode := decode_encode

/-- `DIR` and `PAD` are the low bits of `F` (R70, R71). -/
theorem fBits_rgInit (w : Reg) : (Instr.rgInit (dirField w) (padField w)).fBits =
    0#2 ++ BitVec.ofBool ((fField w).getLsbD 1) ++ BitVec.ofBool ((fField w).getLsbD 0) := by
  have hdir : (dirField w).bit = w.getLsbD 8 := by unfold dirField; cases w.getLsbD 8 <;> rfl
  simp [Instr.fBits, hdir, padField, fField]

/-- The operands a row takes from a word that matches it are put back in `F` as they stood. -/
theorem fBits_build {o : Opcode} {w : Reg} (h : w &&& o.mask = o.matchBits) : (o.build w).fBits = fField w := by
  by_cases ho : o = .rgInit
  · subst ho
    have hlow : ∀ f : BitVec 4, f &&& 0b1100 = 0 →
        0#2 ++ BitVec.ofBool (f.getLsbD 1) ++ BitVec.ofBool (f.getLsbD 0) = f := by decide
    exact (fBits_rgInit w).trans (hlow _ (fField_of_match_rgInit h rfl))
  · rw [fField_eq_zero_of_match h ho]
    cases o with
    | rgInit => exact absurd rfl ho
    | _ => rfl

/-- The same of `IMM`. -/
theorem immBits_build {o : Opcode} {w : Reg} (h : w &&& o.mask = o.matchBits) : (o.build w).immBits = immField w := by
  cases o with
  | rgPush | pmFeed | pmHrpHi | pmHrpLo | ckWord | csEnc | csDec => rfl
  | nop | softReset | clrErr | rgInit | rgFlush | pmInit | ckFinal | ckVerify =>
    exact (immField_eq_zero_of_match h (by decide)).symm

/-- A word that matches a row is the word of the command the row builds from it. -/
theorem encode_build {o : Opcode} {w : Reg} (h : w &&& o.mask = o.matchBits) : encode (o.build w) = w := by
  rw [encode, build_opcode, fBits_build h, immBits_build h, ← opField_of_match h, ← rsvdField_of_match h,
    word_of_fields]

/-- Settles O4: each field of an accepted word is fixed by the row or put back by the encoder. -/
theorem encodeInvertsDecode : Obligations.EncodeInvertsDecode := by
  intro w i hd
  obtain ⟨o, hmatch, rfl⟩ := decode_ok_iff.mp hd
  exact encode_build hmatch

/-- Settles O5: decoding builds a command of the matching row, and the opcode tells the rows apart. -/
theorem decodeSelectsTheOneTableRow : Obligations.DecodeSelectsTheOneTableRow := by
  refine fun w => ⟨fun o => ⟨fun h => ⟨o.build w, decode_ok_iff.mpr ⟨o, h, rfl⟩, build_opcode o w⟩, ?_⟩, ?_, ?_⟩
  · rintro ⟨i, hd, rfl⟩
    obtain ⟨o, hmatch, rfl⟩ := decode_ok_iff.mp hd
    rwa [build_opcode]
  · exact fun o o' h h' => byte_injective ((opField_of_match h).symm.trans (opField_of_match h'))
  · exact decode_error

/-- Settles O2: each word is the encoding of its command. -/
theorem tableWordsDecodeToTheirCommands : Obligations.TableWordsDecodeToTheirCommands :=
  ⟨decode_encode .nop, decode_encode .softReset, decode_encode .clrErr,
    decode_encode (.rgInit .to8 false), decode_encode (.rgInit .to5 true),
    decode_encode (.rgPush 0xFF), decode_encode .rgFlush,
    decode_encode .pmInit, decode_encode (.pmFeed 40),
    decode_encode (.pmHrpHi 0x70), decode_encode (.pmHrpLo 0x7F),
    decode_encode .ckFinal, decode_encode (.ckWord 5), decode_encode .ckVerify,
    decode_encode (.csEnc 31), decode_encode (.csDec 0x71)⟩

end Sys2Proof

namespace Sys2Proof.Machine

open Sys2Proof.Safety

/-! ### Words that are no command -/

/-- An error raised under its opcode is recorded and has no other effect (R223, R224). -/
theorem raiseErr_noEffectBut (e : ErrCode) (op : Byte) (s : State) : NoEffectBut e.code op s (raiseErr e op s) :=
  ⟨raiseErr_records e op s, raiseErr_sameButRecord e op s⟩

/-- A word that matches no row raises `ILLEGAL_CMD` and has no other effect (R74 to R76). -/
theorem execute_unmatched {w : Reg} (h : ∀ o : Opcode, w &&& o.mask ≠ o.matchBits) (s : State) :
    ∃ t, execute w s = .next t ∧ NoEffectBut 1 (opField w) s t := by
  obtain ⟨r, hr⟩ := decode_error h
  exact ⟨_, execute_error hr, raiseErr_noEffectBut .illegalCmd (opField w) s⟩

/-- No row of R73 has a reserved opcode (R76). -/
theorem byte_not_reserved (o : Opcode) :
    ¬ ((0x03 ≤ o.byte ∧ o.byte ≤ 0x0F) ∨ (0x13 ≤ o.byte ∧ o.byte ≤ 0x1F) ∨
      (0x27 ≤ o.byte ∧ o.byte ≤ 0x2F) ∨ 0x32 ≤ o.byte) := by
  cases o <;> decide

/-- Settles O6: a word with a reserved opcode matches no row, since a matching word has the row's opcode. -/
theorem reservedOpcodesRaiseIllegalCmd : Obligations.ReservedOpcodesRaiseIllegalCmd := by
  refine ⟨fun w s hreserved => execute_unmatched (fun o hmatch => ?_) s, decode_encode .nop⟩
  rw [opField_of_match hmatch] at hreserved
  exact byte_not_reserved o hreserved

/-- Settles O7: the word could match only the row of its opcode, and a word that matches a row has zeros where the row
fixes the bits. -/
theorem malformedWordsRaiseIllegalCmd : Obligations.MalformedWordsRaiseIllegalCmd := by
  refine fun w s o hop hbad => execute_unmatched (fun o' hmatch => ?_) s
  obtain rfl : o = o' := byte_injective (hop.trans (opField_of_match hmatch))
  obtain hrsvd | ⟨rfl, hf | himm⟩ | ⟨ho, hf⟩ | ⟨ho, himm⟩ := hbad
  · exact hrsvd (rsvdField_of_match hmatch)
  · exact hf (fField_of_match_rgInit hmatch rfl)
  · exact himm (immField_eq_zero_of_match hmatch (by decide))
  · exact hf (fField_eq_zero_of_match hmatch ho)
  · have hshape : ∀ o ∈ [Opcode.nop, .softReset, .clrErr, .rgFlush, .pmInit, .ckFinal, .ckVerify],
        o.shape ≠ .imm := by decide
    exact himm (immField_eq_zero_of_match hmatch (hshape o ho))

/-! ### Class P errors -/

/-- The operand check of `RG_PUSH` can fail only in 5 -> 8, above 31 (R102, R106, R220). -/
theorem rgPush_check_fails_iff (imm : Byte) (d : Dir) :
    2 ^ fromBits d ≤ imm.toNat ↔ d = .to8 ∧ 31 < imm.toNat := by
  have hlt := imm.isLt
  cases d with
  | to5 => simp only [fromBits, reduceCtorEq, false_and, iff_false]; omega
  | to8 => simp only [fromBits, true_and]; omega

/-- Apart from errors a command leaves the note of R236 as it is. -/
theorem Writes.keeps_hostFault {s u : State} {o : Opcode} (h : Writes s o u) : u.hostFault = s.hostFault := by
  cases h <;> rfl

/-- The codes 4, 5 and 6 are of class D (R220). -/
theorem hostFault_eq_none_of_code {e : ErrCode} (h : e.code ∈ [4#4, 5#4, 6#4]) : e.hostFault = none := by
  cases e with
  | invalidChar | checksumMismatch | nonzeroPadding => rfl
  | illegalCmd | operandRange | hrpChar => exact absurd h (by decide)

/-- A command that can raise class D errors only leaves the note of R236 as it is. -/
theorem exec_keeps_hostFault {i : Instr} (hcodes : ∀ c ∈ errorsOf i.opcode, c ∈ [4#4, 5#4, 6#4]) (s : State) :
    ∃ t, exec i s = .next t ∧ t.hostFault = s.hostFault := by
  obtain ⟨u, hu, hexec | ⟨e, he, hexec⟩⟩ := exec_writes i s
  · exact ⟨u, hexec, hu.keeps_hostFault⟩
  · refine ⟨_, hexec, ?_⟩
    rw [raiseErr_hostFault, hostFault_eq_none_of_code (hcodes _ he), Option.or_none, hu.keeps_hostFault]

/-- A command whose operand check fails raises that error and does nothing else; any other leaves the note of R236 as it
is (R80, R220, R224). -/
theorem exec_classP (i : Instr) (s : State) :
    (∃ e ∈ [ErrCode.operandRange, .hrpChar], classPError i s = some e.code ∧
      exec i s = .next (raiseErr e i.opcode.byte s)) ∨
    (classPError i s = none ∧ ∃ t, exec i s = .next t ∧ t.hostFault = s.hostFault) := by
  cases i with
  | rgPush imm =>
    rcases Nat.lt_or_ge imm.toNat (2 ^ fromBits s.rgDir) with h | h
    · exact .inr ⟨if_neg ((rgPush_check_fails_iff ..).not.mp h.not_ge), _, exec_rgPush_ok h, rfl⟩
    · exact .inl ⟨.operandRange, by decide, if_pos ((rgPush_check_fails_iff ..).mp h), exec_rgPush_bad h⟩
  | pmFeed imm =>
    rcases Nat.lt_or_ge 31 imm.toNat with h | h
    · exact .inl ⟨.operandRange, by decide, if_pos h, exec_pmFeed_bad h⟩
    · exact .inr ⟨if_neg h.not_gt, _, exec_pmFeed_ok h, rfl⟩
  | ckWord imm =>
    rcases Nat.lt_or_ge 5 imm.toNat with h | h
    · exact .inl ⟨.operandRange, by decide, if_pos h, exec_ckWord_bad h⟩
    · exact .inr ⟨if_neg h.not_gt, _, exec_ckWord_ok h, rfl⟩
  | csEnc imm =>
    rcases Nat.lt_or_ge 31 imm.toNat with h | h
    · exact .inl ⟨.operandRange, by decide, if_pos h, exec_csEnc_bad h⟩
    · exact .inr ⟨if_neg h.not_gt, _, exec_csEnc_ok h, rfl⟩
  | pmHrpHi imm =>
    rcases Nat.lt_or_ge 127 imm.toNat with h | h
    · exact .inl ⟨.hrpChar, by decide, if_pos h, exec_pmHrpHi_bad h⟩
    · exact .inr ⟨if_neg h.not_gt, _, exec_pmHrpHi_ok h, rfl⟩
  | pmHrpLo imm =>
    rcases Nat.lt_or_ge 127 imm.toNat with h | h
    · exact .inl ⟨.hrpChar, by decide, if_pos h, exec_pmHrpLo_bad h⟩
    · exact .inr ⟨if_neg h.not_gt, _, exec_pmHrpLo_ok h, rfl⟩
  | nop | softReset | clrErr | rgInit | rgFlush | pmInit | ckFinal | ckVerify | csDec =>
    exact .inr ⟨rfl, exec_keeps_hostFault (by simp [Instr.opcode, errorsOf]) s⟩

/-- The first class P error is noted (R236). -/
theorem raiseErr_notes {s : State} (e : ErrCode) (op : Byte) (h : s.hostFault = none) :
    (raiseErr e op s).hostFault = e.hostFault := by
  rw [raiseErr_hostFault, h, Option.none_or]

/-- Settles O43: an operand check that fails raises its error on the state as it was, and so does a word that is no
command. -/
theorem classPErrorsHaveNoOtherEffect : Obligations.ClassPErrorsHaveNoOtherEffect := by
  refine ⟨fun i s => ?_, fun w s r hd => ?_⟩
  · obtain ⟨e, he, hcode, hexec⟩ | ⟨hcode, t, hexec, hkept⟩ := exec_classP i s
    · refine ⟨fun code h => ?_, fun t h => absurd (hcode.symm.trans h) (Option.some_ne_none _)⟩
      obtain rfl : e.code = code := Option.some.inj (hcode.symm.trans h)
      refine ⟨_, hexec, raiseErr_noEffectBut e _ s, fun hclean => ?_⟩
      have hnote : ∀ e ∈ [ErrCode.operandRange, .hrpChar],
          e.hostFault = some (if e.code = 3 then .hrpChar else .operandRange) := by decide
      exact (raiseErr_notes e _ hclean).trans (hnote e he)
    · refine ⟨fun code h => absurd (h.symm.trans hcode) (Option.some_ne_none _), fun t' _ h => ?_⟩
      cases hexec.symm.trans h
      exact hkept
  · exact ⟨_, execute_error hd, raiseErr_noEffectBut .illegalCmd _ s, raiseErr_notes .illegalCmd _⟩

/-! ### The assembler -/

theorem admits_none_iff {ops : List AsmOperand} : OperandShape.none.admits ops = true ↔ ops = [] := by
  cases ops <;> simp [OperandShape.admits]

theorem admits_imm_iff {ops : List AsmOperand} :
    OperandShape.imm.admits ops = true ↔ ∃ n, ops = [.num n] ∧ n ≤ 255 := by
  match ops with
  | [] | [.dir _] | _ :: _ :: _ => simp [OperandShape.admits]
  | [.num n] => simp [OperandShape.admits]

theorem admits_dirPad_iff {ops : List AsmOperand} :
    OperandShape.dirPad.admits ops = true ↔ ∃ d p, ops = [.dir d, .num p] ∧ p ≤ 1 := by
  match ops with
  | [] | [_] | .num _ :: _ :: _ | [.dir _, .dir _] | .dir _ :: _ :: _ :: _ => simp [OperandShape.admits]
  | [.dir d, .num p] => simp [OperandShape.admits]

theorem assembleCore_of_not_admits {o : Opcode} {ops : List AsmOperand} (h : ¬ o.shape.admits ops = true) :
    assembleCore o ops = none := if_neg h

theorem assembleCore_rgInit (d : Dir) {p : Nat} (h : p ≤ 1) :
    assembleCore .rgInit [.dir d, .num p] = some (.rgInit d (p == 1)) :=
  if_pos (admits_dirPad_iff.mpr ⟨d, p, rfl, h⟩)

/-- Operands that fit the row give a command of the row (R73, R78). -/
theorem assembleCore_of_admits {o : Opcode} {ops : List AsmOperand} (h : o.shape.admits ops = true) :
    ∃ i, assembleCore o ops = some i ∧ i.opcode = o := by
  cases o with
  | rgInit =>
    obtain ⟨d, p, rfl, hp⟩ := admits_dirPad_iff.mp h
    exact ⟨_, assembleCore_rgInit d hp, rfl⟩
  | _ => exact ⟨_, if_pos h, rfl⟩

theorem isSome_assembleCore (o : Opcode) (ops : List AsmOperand) :
    (assembleCore o ops).isSome = o.shape.admits ops := by
  by_cases h : o.shape.admits ops = true
  · obtain ⟨i, hi, -⟩ := assembleCore_of_admits h
    rw [hi, h, Option.isSome_some]
  · rw [assembleCore_of_not_admits h, eq_false_of_ne_true h, Option.isSome_none]

theorem opcode_of_assembleCore {o : Opcode} {ops : List AsmOperand} {i : Instr} (h : assembleCore o ops = some i) :
    i.opcode = o := by
  have hadmits : o.shape.admits ops = true := by rw [← isSome_assembleCore, h, Option.isSome_some]
  obtain ⟨j, hj, hop⟩ := assembleCore_of_admits hadmits
  cases hj.symm.trans h
  exact hop

/-- A row with an `IMM` operand gives the command whose `IMM` is the number (R78). -/
theorem assembleCore_imm {o : Opcode} (ho : o.shape = .imm) {n : Nat} (hn : n ≤ 255) :
    ∃ i, assembleCore o [.num n] = some i ∧ i.opcode = o ∧ i.immBits = BitVec.ofNat 8 n := by
  have h : o.shape.admits [.num n] = true := ho ▸ admits_imm_iff.mpr ⟨n, rfl, hn⟩
  cases o with
  | rgPush | pmFeed | pmHrpHi | pmHrpLo | ckWord | csEnc | csDec => exact ⟨_, if_pos h, rfl, rfl⟩
  | nop | softReset | clrErr | rgInit | rgFlush | pmInit | ckFinal | ckVerify => cases ho

/-- A line with a mnemonic of R73 assembles as the row's command does. -/
theorem assemble_core (o : Opcode) (ops : List AsmOperand) :
    assemble (.cmd (.core o) ops) = (assembleCore o ops).map .command := rfl

theorem isSome_assemble_core (o : Opcode) (ops : List AsmOperand) :
    (assemble (.cmd (.core o) ops)).isSome = o.shape.admits ops := by
  rw [assemble_core, Option.isSome_map, isSome_assembleCore]

/-- The assembler accepts exactly the well-formed lines (R78). -/
theorem isSome_assemble (l : AsmLine) : (assemble l).isSome = l.wellFormed := by
  cases l with
  | cmd m ops =>
    cases m with
    | core o => exact isSome_assemble_core o ops
    | pmSep | rgOpenEnc | rgOpenDec =>
      simp only [assemble, assembleCmd, AsmLine.wellFormed, Option.isSome_map]
      split <;> simp [*]
  | rd r => rfl
  | wr r v =>
    simp only [assemble, AsmLine.wellFormed]
    split <;> simp only [Option.isSome_some, Option.isSome_none, *, decide_true, decide_false]

/-- `RG_INIT` takes a direction and then 0 or 1 (R78). -/
theorem assemble_rgInit_iff (ops : List AsmOperand) (c : AsmItem) :
    assemble (.cmd (.core .rgInit) ops) = some c ↔
      ∃ d p, ops = [.dir d, .num p] ∧ p ≤ 1 ∧ c = .command (.rgInit d (p = 1)) := by
  constructor
  · intro h
    have hadmits : Opcode.rgInit.shape.admits ops = true := by
      rw [← isSome_assemble_core, h, Option.isSome_some]
    obtain ⟨d, p, rfl, hp⟩ := admits_dirPad_iff.mp hadmits
    rw [assemble_core, assembleCore_rgInit d hp] at h
    exact ⟨d, p, rfl, hp, (Option.some.inj h).symm⟩
  · rintro ⟨d, p, rfl, hp, rfl⟩
    rw [assemble_core, assembleCore_rgInit d hp]
    rfl

/-- Settles O59: a line is accepted when its operands fit the row, and then it is a command of that row. -/
theorem assemblerAcceptsTheWellFormedLines : Obligations.AssemblerAcceptsTheWellFormedLines := by
  refine ⟨isSome_assemble, fun o ops ho => ⟨?_, ?_⟩, assemble_rgInit_iff, fun o ops ho => ⟨?_, ?_⟩,
    fun r v => ⟨rfl, fun hv => if_pos hv⟩, fun base i => rfl⟩
  · rw [isSome_assemble_core, ho, admits_imm_iff]
  · rintro n hn rfl
    obtain ⟨i, hi, hop, himm⟩ := assembleCore_imm ho hn
    exact ⟨i, by rw [assemble_core, hi, Option.map_some], hop, (immField_word ..).trans himm⟩
  · rw [isSome_assemble_core, ho, admits_none_iff]
  · intro c hc
    rw [assemble_core, Option.map_eq_some_iff] at hc
    obtain ⟨i, hi, rfl⟩ := hc
    exact ⟨i, rfl, opcode_of_assembleCore hi⟩

/-- Settles O60: the three pseudo-commands of R79 have no operand, so each is one line, and the words are the encodings
of the commands they stand for. -/
theorem pseudoCommandsExpand : Obligations.PseudoCommandsExpand :=
  ⟨rfl, rfl, rfl, rfl, rfl, rfl⟩

end Sys2Proof.Machine

/-! SUPPORT. The statements of 41_regrouper.md: regrouping there and back (O54), the opening of a stream (O19), the check
of the leftover (O23), and the independence of the regrouper and the checksum (O51). -/

namespace Sys2Proof.Machine

open Sys2Proof.Safety

/-! ### A bitstream determines its values -/

/-- The `n` bits of a value determine it. -/
theorem bitsMsb_injective {n v w : Nat} (hv : v < 2 ^ n) (hw : w < 2 ^ n) (h : bitsMsb n v = bitsMsb n w) : v = w := by
  refine Nat.eq_of_testBit_eq fun i => ?_
  rcases Nat.lt_or_ge i n with hi | hi
  · have hbit := List.map_inj_left.mp h (n - 1 - i) (List.mem_range.mpr (by omega))
    rwa [show n - 1 - (n - 1 - i) = i by omega] at hbit
  · have hle : 2 ^ n ≤ 2 ^ i := Nat.pow_le_pow_right (by decide) hi
    rw [Nat.testBit_lt_two_pow (hv.trans_le hle), Nat.testBit_lt_two_pow (hw.trans_le hle)]

/-- There is one way to cut bits into values of `n` bits and a rest shorter than a value (R58). -/
theorem bitstream_cut_unique {n : Nat} {us vs : List Nat} {xs ys : List Bool} (hus : ∀ u ∈ us, u < 2 ^ n)
    (hvs : ∀ v ∈ vs, v < 2 ^ n) (hxs : xs.length < n) (hys : ys.length < n)
    (h : bitstream n us ++ xs = bitstream n vs ++ ys) : us = vs ∧ xs = ys := by
  have hlen := congrArg List.length h
  simp only [List.length_append, length_bitstream] at hlen
  induction us generalizing vs with
  | nil =>
    cases vs with
    | nil => exact ⟨rfl, h⟩
    | cons v vs => rw [List.length_cons, Nat.mul_succ, List.length_nil] at hlen; omega
  | cons u us ih =>
    cases vs with
    | nil => rw [List.length_cons, Nat.mul_succ, List.length_nil] at hlen; omega
    | cons v vs =>
      simp only [List.forall_mem_cons, List.length_cons, Nat.mul_succ] at hus hvs hlen
      simp only [bitstream, List.flatMap_cons, List.append_assoc] at h
      obtain ⟨hhead, htail⟩ := List.append_inj h (by rw [length_bitsMsb, length_bitsMsb])
      obtain ⟨rfl, rfl⟩ := ih hus.2 hvs.2 htail (by omega)
      exact ⟨by rw [bitsMsb_injective hus.1 hvs.1 hhead], rfl⟩

/-! ### Regrouping there and back -/

/-- Regrouping with padding into values no wider and back, before the last flush: the data has come back, and what is
pending are the zero bits of the padding, fewer than one narrow value (R111). -/
theorem regroupLoop_regroup_pad {fw tw : Nat} {data : List Nat} (htw : 0 < tw) (hle : tw ≤ fw)
    (hdata : ∀ v ∈ data, v < 2 ^ fw) :
    let back := regroupLoop tw fw (regroup fw tw true data).1 0 0
    back.1 = data ∧ back.2.2 = tw * ((fw * data.length + (tw - 1)) / tw) - fw * data.length ∧ back.2.2 < tw ∧
      back.2.1 % 2 ^ back.2.2 = 0 := by
  intro back
  obtain ⟨k, hk, hpad⟩ := regroup_pad_bitstream htw hdata
  have hcut : bitstream fw data ++ List.replicate k false = bitstream fw back.1 ++ bitsMsb back.2.2 back.2.1 :=
    hpad.symm.trans (regroupLoop_bits (fun _ => regroup_lt _) 0 0)
  have hcnt : back.2.2 < fw := regroupLoop_count_lt (htw.trans_le hle) _ (htw.trans_le hle)
  obtain ⟨hback, hzeros⟩ := bitstream_cut_unique hdata (fun _ => regroupLoop_lt _)
    (by rw [List.length_replicate]; omega) (by rwa [length_bitsMsb]) hcut
  have hcount : k = back.2.2 := by simpa using congrArg List.length hzeros
  have hbits := congrArg List.length hpad
  rw [List.length_append, length_bitstream, length_bitstream, List.length_replicate,
    length_regroup_pad htw hdata] at hbits
  refine ⟨hback.symm, by omega, by omega, ?_⟩
  by_contra hne
  rw [← ne_eq, ← true_mem_bitsMsb, ← hzeros] at hne
  exact absurd (List.eq_of_mem_replicate hne) (by decide)

/-- Settles O54: the words of the first stream are regroup's, so the second has pushed the bytes back when only the
padding is pending, which its flush finds clean. -/
theorem regroupRoundTrip : Obligations.RegroupRoundTrip := by
  intro b s
  have hbytes : ∀ v ∈ b, v.toNat < 2 ^ 8 := fun v _ => v.isLt
  obtain ⟨s1, hinit, hopen, hkept1⟩ := exec_rgInit_opens .to5 true s
  obtain ⟨s2, words, hrun, hwords, hkept2, -⟩ := hopen.runStream_streamCmds hbytes
  obtain ⟨s3, hinit', hopen', hkept3⟩ := exec_rgInit_opens .to8 false s2
  have hfit : ∀ w ∈ words, w.toNat < 2 ^ 5 := fun w hw => regroup_lt _ (hwords ▸ List.mem_map_of_mem hw)
  obtain ⟨s4, outs, hpushes, houts, ht, hkept4⟩ := hopen'.runStream_pushes hfit
  obtain ⟨hback, hcnt, hlt, hzero⟩ := regroupLoop_regroup_pad (tw := 5) (by decide) (by decide)
    (toNat_lt_of_mem hbytes)
  rw [hwords] at houts ht
  simp only [fromBits, toBits] at houts ht
  generalize regroupLoop 5 8 _ 0 0 = back at *
  have hgood : (decide (5 ≤ back.2.2) || decide (back.2.1 % 2 ^ back.2.2 ≠ 0)) = false := by simp [hlt, hzero]
  obtain rfl : outs = b := List.map_injective_iff.mpr BitVec.toNat_injective (houts.trans hback)
  obtain ⟨s5, hflush, hnone, hclean, -⟩ := ht.flush_check
  obtain ⟨herr, herrOp, hovf, hnote⟩ : KeepsRecord s s5 :=
    (((hkept1.trans (hkept2 rfl)).trans hkept3).trans hkept4).trans (hclean hgood)
  refine ⟨s1, s2, s3, s4, s5, words, hinit, hrun, hinit', hpushes, ?_, ?_, ?_, ?_, herr, herrOp, hovf, hnote⟩
  · rw [ht.cnt_eq, hcnt, List.length_map]
  · rw [ht.cnt_eq]
    omega
  · rw [ht.acc_eq, ht.cnt_eq, Nat.mod_mod_of_dvd _ (pow_dvd_pow 2 (by omega))]
    exact hzero
  · rw [← List.append_nil outs, ← hnone]
    exact runStream_append hpushes (runStream_singleton hflush)

/-! ### Opening a stream -/

/-- The words that fit a row's mask and match are the command the row builds from them (R73, R74). -/
theorem encodedAs_build (o : Opcode) : EncodedAs o.matchBits o.mask o.build := by
  refine fun w => ⟨fun hmatch => decode_ok_iff.mpr ⟨o, hmatch, rfl⟩, fun hd => ?_⟩
  obtain ⟨o', hmatch, hbuild⟩ := decode_ok_iff.mp hd
  obtain rfl : o' = o := by simpa using congrArg Instr.opcode hbuild
  exact hmatch

/-- Bits 11 and 10 of a word are the high bits of `F` (R70). -/
theorem fField_high_eq_zero {w : Reg} (h : fField w &&& 0b1100 = 0) : w.extractLsb' 10 2 = 0#2 := by
  have hhigh : ∀ f : BitVec 4, f &&& 0b1100 = 0 → f.extractLsb' 2 2 = 0#2 := by decide
  rw [← hhigh _ h]
  refine BitVec.eq_of_toNat_eq ?_
  simp only [fField, BitVec.extractLsb'_toNat, Nat.shiftRight_eq_div_pow]
  omega

/-- `RGSTATE` of an open stream 5 -> 8 without padding (R35). -/
theorem rgstateWord_opened (s : State) : rgstateWord ((s.setMode .to8 false).setStream 0 0) = 0x01000000 := by
  simp [rgstateWord, Dir.bit]

/-- Settles O19: the word fits the row or is malformed, and the command writes the mode and empties the stream. -/
theorem rgInitOpensAStream : Obligations.RgInitOpensAStream := by
  refine ⟨encodedAs_build .rgInit, fun s dir pad => rfl, fun w s hop hbad => ?_, fun s => ?_⟩
  · have hmalformed := malformedWordsRaiseIllegalCmd w s .rgInit hop.symm
    rw [show opField w = 0x10 from hop] at hmalformed
    refine hmalformed ?_
    obtain hf | himm | hrsvd := hbad
    · exact .inr (.inl ⟨rfl, .inl (mt fField_high_eq_zero hf)⟩)
    · exact .inr (.inl ⟨rfl, .inr himm⟩)
    · exact .inl hrsvd
  · exact ⟨_, execute_ok (decode_encode (.rgInit .to8 false)), rgstateWord_opened s⟩

/-! ### The check of the leftover -/

/-- In every state the leftover is bad when it holds a whole input value or a bit of it is 1 (R109). -/
theorem leftoverBad_iff (d : Dir) (a : RgAcc) (cnt : Nat) :
    leftoverBad d a cnt = true ↔ fromBits d ≤ cnt ∨ a.toNat % 2 ^ cnt ≠ 0 := by
  rw [leftoverBad, Bool.or_eq_true, decide_eq_true_eq]
  refine or_congr_right' fun hshort => ?_
  have h12 : cnt ≤ 12 := by
    cases d <;> simp only [fromBits] at hshort <;> omega
  rw [bne_iff_ne, ne_eq, ← BitVec.toNat_inj, toNat_and_lowMask_count (Nat.mod_eq_of_lt a.isLt).symm h12]
  rfl

/-- Settles O23: the flush without padding asks `leftoverBad`, and an error of class D leaves the note of R236 as it
was. -/
theorem rgFlushChecksTheLeftover : Obligations.RgFlushChecksTheLeftover := by
  intro s hpad bad
  constructor
  · intro hgood
    exact exec_rgFlush_clean hpad (Bool.eq_false_iff.mpr (mt (leftoverBad_iff ..).mp hgood))
  · intro hbad
    refine ⟨_, exec_rgFlush_bad hpad ((leftoverBad_iff ..).mpr hbad),
      raiseErr_records .nonzeroPadding 0x12 ((s.setStream 0 0).setResult 0), ?_⟩
    rw [raiseErr_eq]
    simp [ErrCode.hostFault, State.setStream, State.setResult]

/-! ### Regrouper and checksum -/

/-- The registers of a stream (R29). -/
def streamView (s : State) : Dir × Bool × RgAcc × BitVec 4 := (s.rgDir, s.rgPad, s.rgAcc, s.rgCnt)

/-- The registers of the polymod engine (R22, R23, R26). -/
def checksumView (s : State) : Residue × Residue × Bool := (s.acc, s.cksum, s.matchFlag)

@[simp] theorem streamView_raiseErr (e : ErrCode) (op : Byte) (s : State) :
    streamView (raiseErr e op s) = streamView s := by
  simp [streamView]

@[simp] theorem streamView_setResult (r : Reg) (s : State) : streamView (s.setResult r) = streamView s := rfl

@[simp] theorem checksumView_raiseErr (e : ErrCode) (op : Byte) (s : State) :
    checksumView (raiseErr e op s) = checksumView s := by
  simp [checksumView]

@[simp] theorem checksumView_setResult (r : Reg) (s : State) : checksumView (s.setResult r) = checksumView s := rfl

section Views

variable {α : Type} (view : State → α) (i : Instr)

/-- The command leaves what is viewed as it is. -/
def Keeps : Prop := ∀ s t, exec i s = .next t → view t = view s

/-- What is viewed after the command depends only on what was viewed before. -/
def DependsOnly : Prop := ∃ f : α → α, ∀ s t, exec i s = .next t → view t = f (view s)

variable {view i} {j : Instr}

theorem Keeps.dependsOnly (h : Keeps view i) : DependsOnly view i := ⟨id, h⟩

theorem dependsOnly_of_exec {f : α → α} {g : State → State} (hexec : ∀ s, exec i s = .next (g s))
    (hview : ∀ s, view (g s) = f (view s)) : DependsOnly view i := by
  refine ⟨f, fun s t h => ?_⟩
  cases h.symm.trans (hexec s)
  exact hview s

/-- A command that keeps what another works on may come before it or after it. -/
theorem view_exchange (hi : DependsOnly view i) (hj : Keeps view j) {s a ab b ba : State} (ha : exec i s = .next a)
    (hab : exec j a = .next ab) (hb : exec j s = .next b) (hba : exec i b = .next ba) : view ab = view ba := by
  obtain ⟨f, hf⟩ := hi
  rw [hj a ab hab, hf s a ha, hf b ba hba, hj s b hb]

end Views

/-- What only the commands of `l` change, a command outside a longer list keeps. -/
theorem eq_of_unlisted {β : Type} {x y : β} {o : Opcode} {l l' : List Opcode} (hlisted : x ≠ y → o ∈ l)
    (ho : o ∉ l') (hsub : l ⊆ l') : x = y :=
  not_not.mp fun hne => ho (hsub (hlisted hne))

/-- Only the commands that R29 lists write the registers of the stream. -/
theorem keeps_streamView {i : Instr} (hi : i.opcode ∉ [.rgInit, .rgPush, .rgFlush, .softReset]) :
    Keeps streamView i := by
  intro s t h
  obtain ⟨-, -, -, -, hmode, hstream, -⟩ := onlyListedCommandsWriteARegister i s t h
  have hdir := eq_of_unlisted (fun h => hmode (.inl h)) hi (by decide)
  have hpad := eq_of_unlisted (fun h => hmode (.inr h)) hi (by decide)
  have hacc := eq_of_unlisted (fun h => hstream (.inl h)) hi (List.Subset.refl _)
  have hcnt := eq_of_unlisted (fun h => hstream (.inr h)) hi (List.Subset.refl _)
  simp only [streamView, hdir, hpad, hacc, hcnt]

/-- Only the commands that R22, R23 and R26 list write the registers of the polymod engine. -/
theorem keeps_checksumView {i : Instr}
    (hi : i.opcode ∉ [.pmInit, .pmFeed, .pmHrpHi, .pmHrpLo, .ckFinal, .ckVerify, .softReset]) :
    Keeps checksumView i := by
  intro s t h
  obtain ⟨hacc, hcksum, -, hmatch, -⟩ := onlyListedCommandsWriteARegister i s t h
  simp only [checksumView, eq_of_unlisted hacc hi (by decide), eq_of_unlisted hcksum hi (by decide),
    eq_of_unlisted hmatch hi (by decide)]

/-- A regrouper command works on the stream alone (R112). -/
theorem dependsOnly_streamView {i : Instr} (hi : i.opcode ∈ regrouperOps) : DependsOnly streamView i := by
  cases i with
  | rgInit dir pad => exact dependsOnly_of_exec (f := fun _ => (dir, pad, 0, 0)) (fun _ => rfl) fun _ => rfl
  | rgPush imm =>
    refine ⟨fun (d, pad, acc, cnt) => if imm.toNat < 2 ^ fromBits d then
      let n := cnt.toNat + fromBits d
      (d, pad, shiftIn d acc imm, BitVec.ofNat 4 (emitLoop d (shiftIn d acc imm) n n).2) else (d, pad, acc, cnt),
      fun s t h => ?_⟩
    by_cases hfit : imm.toNat < 2 ^ fromBits s.rgDir
    · cases h.symm.trans (exec_rgPush_ok hfit)
      exact (if_pos hfit).symm
    · cases h.symm.trans (exec_rgPush_bad (Nat.not_lt.mp hfit))
      exact (streamView_raiseErr ..).trans (if_neg hfit).symm
  | rgFlush =>
    refine ⟨fun (d, pad, _, _) => (d, pad, 0, 0), fun s t h => ?_⟩
    cases hpad : s.rgPad with
    | true =>
      cases h.symm.trans (exec_rgFlush_pad hpad)
      rfl
    | false =>
      cases hbad : leftoverBad s.rgDir s.rgAcc s.rgCnt.toNat with
      | true =>
        cases h.symm.trans (exec_rgFlush_bad hpad hbad)
        exact streamView_raiseErr ..
      | false =>
        cases h.symm.trans (exec_rgFlush_clean hpad hbad)
        rfl
  | _ => exact absurd hi (of_decide_eq_false rfl)

/-- A feed of the word an operand check gives, or the error when it gives none, works on the engine alone. -/
theorem dependsOnly_checksumView_feed {i : Instr} {e : ErrCode} {op : Byte} (word : Option Word)
    (hexec : ∀ s, exec i s = match word with | none => .next (raiseErr e op s) | some v => .next (feed v s)) :
    DependsOnly checksumView i := by
  cases word with
  | none => exact dependsOnly_of_exec (f := id) hexec (checksumView_raiseErr e op)
  | some v => exact dependsOnly_of_exec (f := fun (acc, rest) => (polyStep acc v, rest)) hexec fun _ => rfl

/-- A checksum or charset command works on the polymod engine alone (R112). -/
theorem dependsOnly_checksumView {j : Instr} (hj : j.opcode ∈ checksumOps) : DependsOnly checksumView j := by
  cases j with
  | pmInit => exact dependsOnly_of_exec (f := fun (_, rest) => (Config.accInit, rest)) (fun _ => rfl) fun _ => rfl
  | pmFeed imm => exact dependsOnly_checksumView_feed (wordOperand imm) fun _ => rfl
  | pmHrpHi imm => exact dependsOnly_checksumView_feed (hrpHigh imm) fun _ => rfl
  | pmHrpLo imm => exact dependsOnly_checksumView_feed (hrpLow imm) fun _ => rfl
  | ckFinal =>
    exact dependsOnly_of_exec (f := fun (acc, _, m) =>
      (feedZeros Config.ckLen acc, feedZeros Config.ckLen acc ^^^ checksumConst, m)) (fun _ => rfl) fun _ => rfl
  | ckVerify =>
    refine ⟨fun (acc, cksum, _) => (acc, cksum, acc == checksumConst), fun s t h => ?_⟩
    by_cases hmatch : s.acc = checksumConst
    · cases h.symm.trans (exec_ckVerify_match hmatch)
      simp [checksumView, hmatch]
    · cases h.symm.trans (exec_ckVerify_mismatch hmatch)
      simp [checksumView, hmatch]
  | ckWord imm | csEnc imm | csDec imm => exact (keeps_checksumView (of_decide_eq_false rfl)).dependsOnly
  | _ => exact absurd hj (of_decide_eq_false rfl)

theorem keeps_checksumView_of_regrouperOps {i : Instr} (hi : i.opcode ∈ regrouperOps) : Keeps checksumView i := by
  have hdisjoint : ∀ o ∈ regrouperOps,
      o ∉ [Opcode.pmInit, .pmFeed, .pmHrpHi, .pmHrpLo, .ckFinal, .ckVerify, .softReset] := by decide
  exact keeps_checksumView (hdisjoint _ hi)

theorem keeps_streamView_of_checksumOps {j : Instr} (hj : j.opcode ∈ checksumOps) : Keeps streamView j := by
  have hdisjoint : ∀ o ∈ checksumOps, o ∉ [Opcode.rgInit, .rgPush, .rgFlush, .softReset] := by decide
  exact keeps_streamView (hdisjoint _ hj)

/-- Settles O51: each group works on registers of its own, which the other group keeps. -/
theorem regrouperAndChecksumCommandsCommute : Obligations.RegrouperAndChecksumCommandsCommute := by
  intro i j s a ab b ba hi hj ha hab hb hba
  have hkeepsEngine := keeps_checksumView_of_regrouperOps hi
  have hkeepsStream := keeps_streamView_of_checksumOps hj
  have hengine := view_exchange (dependsOnly_checksumView hj) hkeepsEngine hb hba ha hab
  have hstream := view_exchange (dependsOnly_streamView hi) hkeepsStream ha hab hb hba
  have hengineKept := hkeepsEngine s a ha
  have hstreamKept := hkeepsStream s b hb
  simp only [checksumView, streamView, Prod.mk.injEq] at hengine hstream hengineKept hstreamKept
  obtain ⟨hacc, hcksum, hmatch⟩ := hengine
  obtain ⟨hdir, hpad, hrgAcc, hrgCnt⟩ := hstream
  obtain ⟨haccKept, hcksumKept, hmatchKept⟩ := hengineKept
  obtain ⟨hdirKept, hpadKept, hrgAccKept, hrgCntKept⟩ := hstreamKept
  exact ⟨hacc.symm, hcksum.symm, hmatch.symm, hrgAcc, hrgCnt, hdir, hpad, haccKept, hcksumKept, hmatchKept,
    hrgAccKept, hrgCntKept, hdirKept, hpadKept⟩

end Sys2Proof.Machine

/-! SUPPORT. The polymod engine and the checksum commands (O24 to O32 and O34 to O37): the step as coefficients and as a
linear map, the residue that words make, the checksum sequences, then each command. -/

namespace Sys2Proof.Machine

open Sys2Proof.Safety

/-! ### The step function -/

/-- One turn of the loop of R131, as the coefficient it adds. -/
theorem xorSelected_cons (top : Word) (g : Residue) (gs : List Residue) (i : Nat) :
    xorSelected top (g :: gs) i 0 = (if top.getLsbD i then g else 0) ^^^ xorSelected top gs (i + 1) 0 := by
  rw [xorSelected, xorSelected_eq]
  simp

/-- Bit `i` of the top selects coefficient `i` (R131, R32). -/
theorem feedback_eq (top : Word) : feedback top =
    (if top.getLsbD 0 then 0x3b6a57b2 else 0) ^^^ (if top.getLsbD 1 then 0x26508e6d else 0) ^^^
    (if top.getLsbD 2 then 0x1ea119fa else 0) ^^^ (if top.getLsbD 3 then 0x3d4233dd else 0) ^^^
    (if top.getLsbD 4 then 0x2a1462b3 else 0) := by
  have hnil : ∀ i, xorSelected top [] i 0 = 0#30 := fun _ => rfl
  rw [feedback, genTable]
  simp only [xorSelected_cons, hnil, BitVec.xor_zero, BitVec.xor_assoc, Nat.reduceAdd]

theorem feedback_zero : feedback 0 = 0 := by decide

/-- The low 25 bits moved up by 5 and the value below them, as a number (R131). -/
theorem toNat_shifted_xor (acc : Residue) (v : Word) :
    ((acc &&& 0x1FFFFFF) <<< 5 ^^^ v.setWidth 30).toNat = acc.toNat % 2 ^ 25 * 2 ^ 5 ^^^ v.toNat := by
  have hlow : acc.toNat &&& 0x1FFFFFF = acc.toNat % 2 ^ 25 := Nat.and_two_pow_sub_one_eq_mod acc.toNat 25
  rw [BitVec.toNat_xor, BitVec.toNat_shiftLeft, BitVec.toNat_and, BitVec.toNat_setWidth_of_le (by decide),
    Nat.shiftLeft_eq]
  change (acc.toNat &&& 0x1FFFFFF) * 2 ^ 5 % 2 ^ 30 ^^^ v.toNat = _
  rw [hlow, Nat.mod_eq_of_lt (by omega)]

/-- Settles O24: the step is the shifted low part and the value, and the feedback is the coefficients that the top
selects. -/
theorem polyStepSelectsCoefficientsByTopBits : Obligations.PolyStepSelectsCoefficientsByTopBits := by
  refine ⟨by decide, fun acc v => ?_⟩
  rw [polyStep_eq, feedback_eq, BitVec.toNat_xor, toNat_shifted_xor]
  have hbit : ∀ i < 5, (acc.extractLsb' 25 5).getLsbD i = acc.toNat.testBit (25 + i) :=
    fun i hi => by simp [hi, BitVec.testBit_toNat]
  simp only [BitVec.toNat_xor, apply_ite BitVec.toNat, hbit, Nat.reduceLT, Nat.reduceAdd, Nat.xor_assoc]
  rfl

/-- A feed of 0 (R135). -/
theorem polyStep_zero (a : Residue) : polyStep a 0 = (a &&& 0x1FFFFFF) <<< 5 ^^^ feedback (a.extractLsb' 25 5) := by
  simp [polyStep_eq]

/-- The value only enters the low bits (R144 (a)). -/
theorem polyStep_eq_zero_xor (a : Residue) (v : Word) : polyStep a v = polyStep a 0 ^^^ v.setWidth 30 := by
  rw [polyStep_eq, polyStep_zero]
  ac_rfl

/-- The step is linear (R144 (b)). -/
theorem polyStep_xor_zero (a b : Residue) : polyStep (a ^^^ b) 0 = polyStep a 0 ^^^ polyStep b 0 := by
  have hlow : (a ^^^ b) &&& 0x1FFFFFF = (a &&& 0x1FFFFFF) ^^^ (b &&& 0x1FFFFFF) :=
    BitVec.eq_of_toNat_eq Nat.and_xor_distrib_right
  rw [polyStep_zero, polyStep_zero, polyStep_zero, hlow, BitVec.shiftLeft_xor_distrib, BitVec.extractLsb'_xor,
    feedback_xor]
  ac_rfl

/-- Below 25 bits a feed of 0 only shifts (R135). -/
theorem polyStep_zero_of_lt {b : Residue} (h : b.toNat < 2 ^ 25) : polyStep b 0 = b <<< 5 := by
  have htop : b.extractLsb' 25 5 = 0 := by
    refine BitVec.eq_of_toNat_eq ?_
    rw [BitVec.extractLsb'_toNat, Nat.shiftRight_eq_div_pow, Nat.div_eq_of_lt h]
    rfl
  have hlow : b &&& 0x1FFFFFF = b := by
    refine BitVec.eq_of_toNat_eq ?_
    exact (Nat.and_two_pow_sub_one_eq_mod b.toNat 25).trans (Nat.mod_eq_of_lt h)
  rw [polyStep_zero, htop, feedback_zero, hlow]
  exact BitVec.xor_zero

/-! ### The residue that words make -/

/-- The residue whose checksum words are `ws`, most significant first (R59): each word moves those before it up by 5. -/
def wordsResidue (ws : List Word) : Residue := ws.foldl (fun r w => r <<< 5 ^^^ w.setWidth 30) 0

@[simp] theorem wordsResidue_concat (ws : List Word) (w : Word) :
    wordsResidue (ws ++ [w]) = wordsResidue ws <<< 5 ^^^ w.setWidth 30 := by
  simp [wordsResidue]

theorem toNat_wordsResidue_lt (ws : List Word) : (wordsResidue ws).toNat < 2 ^ (5 * ws.length) := by
  induction ws using List.reverseRecOn with
  | nil => decide
  | append_singleton ws w ih =>
    rw [wordsResidue_concat, BitVec.toNat_xor, BitVec.toNat_shiftLeft, BitVec.toNat_setWidth_of_le (by decide),
      Nat.shiftLeft_eq, List.length_append, List.length_singleton, Nat.mul_succ]
    have hshift : (wordsResidue ws).toNat * 2 ^ 5 < 2 ^ (5 * ws.length + 5) := by
      rw [pow_add]
      exact Nat.mul_lt_mul_of_pos_right ih (by decide)
    exact Nat.xor_lt_two_pow ((Nat.mod_le ..).trans_lt hshift)
      (w.isLt.trans_le (Nat.pow_le_pow_right (by decide) (Nat.le_add_left ..)))

/-- Up to six feeds leave each word in its place above as many feeds of 0 (R144 (c)). -/
theorem foldl_polyStep_eq_xor_wordsResidue (a : Residue) {ws : List Word} (h : ws.length ≤ 6) :
    ws.foldl polyStep a = (List.replicate ws.length 0).foldl polyStep a ^^^ wordsResidue ws := by
  induction ws using List.reverseRecOn with
  | nil => exact BitVec.xor_zero.symm
  | append_singleton ws w ih =>
    rw [List.length_append, List.length_singleton] at h
    have hlt : (wordsResidue ws).toNat < 2 ^ 25 :=
      (toNat_wordsResidue_lt ws).trans_le (Nat.pow_le_pow_right (by decide) (by omega))
    rw [List.foldl_concat, ih (by omega), polyStep_eq_zero_xor, polyStep_xor_zero, polyStep_zero_of_lt hlt,
      List.length_append, List.length_singleton, List.replicate_succ', List.foldl_concat, wordsResidue_concat,
      BitVec.xor_assoc]

/-- Settles O25: (a) and (b) by the form of the step, (c) by the feeds of up to six words. -/
theorem polyStepIsLinear : Obligations.PolyStepIsLinear := by
  refine ⟨polyStep_eq_zero_xor, polyStep_xor_zero, fun a w0 w1 w2 w3 w4 w5 => ?_⟩
  rw [foldl_polyStep_eq_xor_wordsResidue a (ws := [w0, w1, w2, w3, w4, w5]) (Nat.le_refl 6)]
  simp [wordsResidue, BitVec.shiftLeft_xor_distrib, ← BitVec.shiftLeft_add]

/-- A residue is what stands above its lowest word, and that word. -/
theorem shiftRight_shiftLeft_xor_setWidth (x : Residue) : (x >>> 5) <<< 5 ^^^ (x.setWidth 5).setWidth 30 = x := by
  refine BitVec.eq_of_getLsbD_eq fun i hi => ?_
  by_cases h : i < 5
  · simp [h, hi]
  · simp [h, hi, Nat.add_sub_of_le (Nat.not_lt.mp h)]

/-- The first `k` checksum words of a residue are its high bits (R59). -/
theorem wordsResidue_checksumWords (r : Residue) {k : Nat} (h : k ≤ 6) :
    wordsResidue ((List.range k).map (checksumWord r)) = r >>> (5 * (6 - k)) := by
  induction k with
  | zero => exact (BitVec.ushiftRight_eq_zero (Nat.le_refl 30)).symm
  | succ k ih =>
    have hk : 5 * (6 - k) = 5 * (5 - k) + 5 := by omega
    rw [List.range_succ, List.map_append, List.map_singleton, wordsResidue_concat, ih (by omega), hk,
      BitVec.shiftRight_add, checksumWord, shiftRight_shiftLeft_xor_setWidth, Nat.succ_sub_succ]

/-- Feeding the checksum words of what six feeds of 0 would leave, with the constant applied, leaves the constant
(R143). -/
theorem foldl_polyStep_checksumWords (a : Residue) :
    ((List.range 6).map (checksumWord (feedZeros 6 a ^^^ checksumConst))).foldl polyStep a = checksumConst := by
  rw [foldl_polyStep_eq_xor_wordsResidue a (by simp), wordsResidue_checksumWords _ (Nat.le_refl 6), feedZeros_eq]
  simp

/-- Settles O35: PLI's checksum is the six words that bring the residue to the constant, and so are the words of
`CKSUM`. -/
theorem appendedChecksumVerifies : Obligations.AppendedChecksumVerifies := by
  refine ⟨fun p words => ?_, fun s t u hfinal hacc => ⟨_, ?_, rfl⟩⟩
  · rw [verifyChecksum, beq_iff_eq, ← List.append_assoc, polymod_append, createChecksum, ← feedZeros_polymod]
    exact foldl_polyStep_checksumWords _
  · obtain ⟨t', hfinal', hcksum⟩ := exec_ckFinal s
    obtain rfl : t' = t := Host.Outcome.next.inj (hfinal'.symm.trans hfinal)
    have hconst : ((List.range 6).map (checksumWord t'.cksum)).foldl polyStep u.acc = checksumConst := by
      rw [hcksum, hacc]
      exact foldl_polyStep_checksumWords s.acc
    have hfeeds := feeds_map (cmd := fun i => .pmFeed (wordImm (checksumWord t'.cksum i)))
      (fun i (_ : i ∈ List.range 6) => exec_pmFeed_wordImm (checksumWord t'.cksum i)) u
    rw [hconst] at hfeeds
    refine (runCmds_append hfeeds).trans ?_
    rw [runCmds, exec_ckVerify_match rfl]
    rfl

/-! ### The checksum sequences -/

/-- Settles O36: the feeds leave polymod in `ACC`, and the reads take the words of the residue `CK_FINAL` made of it. -/
theorem createChecksumSequenceIsCorrect : Obligations.CreateChecksumSequenceIsCorrect := by
  intro p words s hp
  obtain ⟨t, hrun⟩ := checksumProc_runs s.b32Base hp words s
  exact ⟨t, hrun.runHost_eq⟩

/-- Settles O37: the feeds leave polymod in `ACC`, and `CK_VERIFY` puts its comparison in `MATCH`. -/
theorem verifyChecksumSequenceIsCorrect : Obligations.VerifyChecksumSequenceIsCorrect := by
  intro p combined s hp
  obtain ⟨t, hrun⟩ := verifyProc_runs s.b32Base hp combined s
  exact ⟨t, hrun.runHost_eq⟩

/-! ### The commands that feed -/

/-- Settles O26: the row's word, and the one write of the command. -/
theorem pmInitStartsASequence : Obligations.PmInitStartsASequence :=
  ⟨encodedAs_build .pmInit, fun _ => rfl, fun _ _ => ⟨_, execute_ok (decode_encode .pmInit), rfl⟩⟩

/-- Settles O27: the operand check decides between one feed and the range error. -/
theorem pmFeedFeedsOneWord : Obligations.PmFeedFeedsOneWord := by
  refine ⟨encodedAs_build .pmFeed, fun s imm h => exec_pmFeed_ok h,
    fun s imm h => ⟨_, exec_pmFeed_bad h, raiseErr_noEffectBut .operandRange 0x21 s⟩,
    rfl, polyStep_eq_zero_xor, fun s h => ?_, fun s h => ?_⟩
  · rw [exec_pmFeed_ok (by decide), feed, h]
    rfl
  · rw [exec_pmFeed_ok (by decide), feed, h]
    rfl

/-- Settles O28: a code up to 127 feeds its high part, a larger one only raises the error. -/
theorem pmHrpHiFeedsTheHighPart : Obligations.PmHrpHiFeedsTheHighPart := by
  refine ⟨encodedAs_build .pmHrpHi, fun s imm h => ⟨by omega, ?_⟩,
    fun s imm h => ⟨_, exec_pmHrpHi_bad h, raiseErr_noEffectBut .hrpChar 0x22 s⟩, fun s h => ?_⟩
  · have hexec := exec_pmHrpHi_code h s
    rwa [BitVec.ofNat_toNat, BitVec.setWidth_eq] at hexec
  · refine (execute_ok (decode_encode (.pmHrpHi 0x70))).trans ?_
    rw [exec_pmHrpHi_ok (by decide), feed, h]
    rfl

/-- Settles O29: a code up to 127 feeds its low part, a larger one only raises the error. -/
theorem pmHrpLoFeedsTheLowPart : Obligations.PmHrpLoFeedsTheLowPart := by
  refine ⟨encodedAs_build .pmHrpLo, fun s imm h => ?_,
    fun s imm h => ⟨_, exec_pmHrpLo_bad h, raiseErr_noEffectBut .hrpChar 0x23 s⟩, fun s h => ?_⟩
  · have hexec := exec_pmHrpLo_code h s
    rwa [BitVec.ofNat_toNat, BitVec.setWidth_eq] at hexec
  · refine (execute_ok (decode_encode (.pmHrpLo 0x7F))).trans ?_
    rw [exec_pmHrpLo_ok (by decide), feed, h]
    rfl

/-- Settles O30: each `PM_FEED` of a word is one step of the fold that `polymod` is. -/
theorem feedsComputePolymod : Obligations.FeedsComputePolymod := by
  refine ⟨rfl, fun vs v => by rw [polymod_append]; rfl, fun s vs => ?_⟩
  have hfeeds := feeds_map (xs := vs) (word := id) (fun w _ => exec_pmFeed_wordImm w) (s.setAcc Config.accInit)
  rw [List.map_id] at hfeeds
  exact hfeeds

/-! ### The checksum commands -/

/-- Settles O31: the command writes what its meaning says, and the example is one evaluation of it. -/
theorem ckFinalCompletesAChecksum : Obligations.CkFinalCompletesAChecksum := by
  refine ⟨encodedAs_build .ckFinal, fun s => rfl, fun s h => ?_⟩
  refine (execute_ok (decode_encode .ckFinal)).trans ?_
  rw [exec, execCkFinal, h]
  rfl

/-- `CK_WORD` leaves the word that its index names in `RESULT` (R139). -/
theorem exec_ckWord_of_word {s : State} {imm : Byte} {w : Word} (h : imm.toNat ≤ 5)
    (hw : checksumWord s.cksum imm.toNat = w) : exec (.ckWord imm) s = .next (s.setResult (w.setWidth 32)) := by
  rw [exec_ckWord_ok h, hw]

/-- Settles O32: each clause is `RESULT` with the one word of `CKSUM` that the index names. -/
theorem ckWordExtractsOneWord : Obligations.CkWordExtractsOneWord := by
  refine ⟨encodedAs_build .ckWord, fun s imm h => ?_,
    fun s imm h => ⟨_, exec_ckWord_bad h, raiseErr_noEffectBut .operandRange 0x25 s⟩,
    fun s => ⟨exec_ckWord_of_word (by decide) BitVec.setWidth_ushiftRight_eq_extractLsb,
      exec_ckWord_of_word (by decide) BitVec.setWidth_ushiftRight_eq_extractLsb⟩,
    fun imm h => exec_ckWord_of_word (s := State.reset) (w := 0) h (by simp [checksumWord, State.reset]),
    fun s h => ⟨?_, ?_⟩⟩
  · rw [exec_ckWord_ok h, ← toNat_checksumWord, BitVec.ofNat_toNat]
    rfl
  · refine (execute_ok (decode_encode (.ckWord 0))).trans ?_
    exact exec_ckWord_of_word (w := 29) (by decide) (by rw [h]; rfl)
  · refine (execute_ok (decode_encode (.ckWord 5))).trans ?_
    exact exec_ckWord_of_word (w := 19) (by decide) (by rw [h]; rfl)

/-- `CK_VERIFY` answers the same in `MATCH` and `RESULT`, by whether `ACC` holds the constant, and keeps `ACC`
(R140). -/
theorem exec_ckVerify_verdict {s t : State} (h : exec .ckVerify s = .next t) :
    t.acc = s.acc ∧ t.matchFlag = (s.acc == checksumConst) ∧ t.result = if s.acc = checksumConst then 1 else 0 := by
  by_cases hacc : s.acc = checksumConst
  · cases h.symm.trans (exec_ckVerify_match hacc)
    simp [hacc]
  · cases h.symm.trans (exec_ckVerify_mismatch hacc)
    simp [hacc]

/-- Right after `ACC` was set to 1, `CK_VERIFY` mismatches (R140). -/
theorem exec_ckVerify_of_init {s t : State} (hacc : s.acc = 1) (h : exec .ckVerify s = .next t) :
    t.matchFlag = false := by
  obtain ⟨-, hmatch, -⟩ := exec_ckVerify_verdict h
  rw [hmatch, hacc]
  rfl

/-- `ACC` after `PM_INIT` and the expansion of `penumbra`, the example of R138. -/
theorem polymod_penumbra :
    polymod (expandHrp [0x70, 0x65, 0x6E, 0x75, 0x6D, 0x62, 0x72, 0x61]) = 0x0898AB40 := by
  have hexpand : expandHrp [0x70, 0x65, 0x6E, 0x75, 0x6D, 0x62, 0x72, 0x61] =
      [3, 3, 3, 3, 3, 3, 3, 3, 0] ++ [16, 5, 14, 21, 13, 2, 18, 1] := by decide
  have hhigh : polymod [3, 3, 3, 3, 3, 3, 3, 3, 0] = 0x17456339 := by decide
  rw [hexpand, polymod_append, hhigh]
  decide

/-- Settles O34: the verdict depends on `ACC` alone, which the command keeps. -/
theorem ckVerifyComparesTheResidue : Obligations.CkVerifyComparesTheResidue := by
  refine ⟨encodedAs_build .ckVerify, fun s h => exec_ckVerify_match h,
    fun s h => ⟨_, exec_ckVerify_mismatch h,
      raiseErr_records .checksumMismatch 0x26 ((s.setMatch false).setResult 0), ?_⟩,
    fun s t u ht hu => ?_, fun s t u ht hu => ?_, fun u hu => exec_ckVerify_of_init rfl hu, ?_⟩
  · rw [raiseErr_eq]
    simp [ErrCode.hostFault, State.setMatch, State.setResult]
  · obtain ⟨hacc, hmatch, hresult⟩ := exec_ckVerify_verdict ht
    obtain ⟨-, hmatch', hresult'⟩ := exec_ckVerify_verdict hu
    rw [hmatch', hresult', hmatch, hresult, hacc]
    exact ⟨rfl, rfl⟩
  · cases ht
    exact exec_ckVerify_of_init rfl hu
  · rw [polymod_append, polymod_penumbra]
    decide

end Sys2Proof.Machine

/-! SUPPORT. The statements of 43_charset.md: the two commands (O38, O39) and the round trip between them (O40). -/

namespace Sys2Proof.Machine

open Sys2Proof.Safety

/-! ### The tables -/

/-- A character of the charset is a lower-case letter or a digit (R161). -/
theorem charsetRom_lower_or_digit (v : Word) :
    (0x61 ≤ (charsetRom v).toNat ∧ (charsetRom v).toNat ≤ 0x7A) ∨
      (0x30 ≤ (charsetRom v).toNat ∧ (charsetRom v).toNat ≤ 0x39) := by
  revert v
  decide

/-- The charset has no `1`, `b`, `i` or `o`, no upper case and no code from 0x80 on (R162). -/
theorem excluded_of_mem_charsetTable : ∀ c ∈ charsetTable,
    ¬ (c ∈ [0x31#8, 0x62#8, 0x69#8, 0x6F#8] ∨ (0x41 ≤ c ∧ c ≤ 0x5A) ∨ 0x80 ≤ c) := by
  decide

theorem exists_charsetRom_eq : ∀ c ∈ charsetTable, ∃ v, charsetRom v = c := by
  decide

/-- `CHARSET_ROM` inverts `INV_ROM` on the codes that have a word (R163). -/
theorem charsetRom_invRom {c : Byte} (h : invRom c ≠ invalidMark) : charsetRom ((invRom c).setWidth 5) = c := by
  obtain ⟨v, rfl⟩ := (charsetRom_or_mark c).resolve_right h
  rw [invRom_charsetRom]
  exact congrArg charsetRom (setWidth_wordImm v)

/-- `INV_ROM` holds a word at every character of the charset (R31). -/
theorem invRom_le {c : Byte} (h : c ∈ charsetTable) : (invRom c).toNat ≤ 31 := by
  obtain ⟨v, rfl⟩ := exists_charsetRom_eq c h
  rw [invRom_charsetRom]
  exact wordImm_le v

theorem ne_invalidMark_of_le {b : Byte} (h : b.toNat ≤ 31) : b ≠ invalidMark := by
  rintro rfl
  exact absurd h (by decide)

/-! ### The commands -/

/-- `CS_ENC` leaves the character of a word in `RESULT` (R161). -/
theorem exec_csEnc_wordImm (v : Word) (s : State) :
    exec (.csEnc (wordImm v)) s = .next (s.setResult ((charsetRom v).setWidth 32)) := by
  rw [exec_csEnc_ok (wordImm_le v), setWidth_wordImm]

/-- `CS_DEC` of the character of a word leaves the word in `RESULT` (R162). -/
theorem exec_csDec_charsetRom (v : Word) (s : State) :
    exec (.csDec (charsetRom v)) s = .next (s.setResult (v.setWidth 32)) := by
  have hword : invRom (charsetRom v) = wordImm v := invRom_charsetRom v
  have hne : invRom (charsetRom v) ≠ invalidMark := hword ▸ ne_invalidMark_of_le (wordImm_le v)
  rw [exec_csDec_ok hne, hword]
  simp [wordImm]

/-- `CS_DEC` of a code outside the charset writes 0xFF and raises a class D error, which is not noted (R162, R224). -/
theorem exec_csDec_of_not_mem {imm : Byte} (h : imm ∉ charsetTable) (s : State) :
    ∃ t, exec (.csDec imm) s = .next t ∧ Records 4 0x31 s t ∧
      t = { s with result := 0xFF, err := t.err, errOp := t.errOp, ovf := t.ovf } := by
  refine ⟨_, exec_csDec_bad (invRom_of_not_mem h), raiseErr_records .invalidChar 0x31 (s.setResult 0xFF), ?_⟩
  rw [raiseErr_eq]
  simp [ErrCode.hostFault, State.setResult]

/-- Settles O38: the operand check decides between the entry of the ROM and the range error. -/
theorem csEncMapsAWordToItsCharacter : Obligations.CsEncMapsAWordToItsCharacter :=
  ⟨encodedAs_build .csEnc, fun _ _ h => exec_csEnc_ok h, charsetRom_lower_or_digit,
    fun s _ h => ⟨_, exec_csEnc_bad h, raiseErr_noEffectBut .operandRange 0x30 s⟩,
    fun s => ⟨(execute_ok (decode_encode (.csEnc 0))).trans (exec_csEnc_wordImm 0 s),
      (execute_ok (decode_encode (.csEnc 31))).trans (exec_csEnc_wordImm 31 s)⟩⟩

/-- Settles O39: `INV_ROM` holds a word at the characters of the charset and the mark at every other code. -/
theorem csDecMapsACharacterToItsWord : Obligations.CsDecMapsACharacterToItsWord := by
  refine ⟨encodedAs_build .csDec, fun s imm h => ⟨exec_csDec_ok (ne_invalidMark_of_le (invRom_le h)), invRom_le h⟩,
    fun s imm h => exec_csDec_of_not_mem h s, fun c hc h => excluded_of_mem_charsetTable c h hc,
    fun s => ⟨?_, ?_, ?_⟩⟩
  · exact (execute_ok (decode_encode (.csDec 0x71))).trans (exec_csDec_charsetRom 0 s)
  · exact (execute_ok (decode_encode (.csDec 0x6C))).trans (exec_csDec_charsetRom 31 s)
  · obtain ⟨t, hexec, hrecords, ht⟩ := exec_csDec_of_not_mem (imm := 0x62) (by decide) s
    exact ⟨t, (execute_ok (decode_encode (.csDec 0x62))).trans hexec, congrArg State.result ht, hrecords⟩

/-- Settles O40: each table inverts the other, so `CS_DEC` of the character that `CS_ENC` left gives the word back. -/
theorem charsetIsABijection : Obligations.CharsetIsABijection := by
  refine ⟨invRom_charsetRom, fun c h => charsetRom_invRom h, fun s v => ⟨_, _, exec_csEnc_wordImm v s, ?_, rfl⟩⟩
  have hchar : ((charsetRom v).setWidth 32).setWidth 8 = charsetRom v := by simp
  rw [State.setResult_result, hchar, exec_csDec_charsetRom]
  rfl

end Sys2Proof.Machine

/-! SUPPORT. The statements of 44_control.md: `NOP` (O16), `SOFT_RESET` (O17) and `CLR_ERR` (O18). -/

namespace Sys2Proof.Machine

open Sys2Proof.Safety

/-- Where a row fixes every bit, any other word with the row's opcode only raises `ILLEGAL_CMD` (R75). -/
theorem execute_of_other_word {o : Opcode} {w : Reg} (hmask : o.mask = BitVec.allOnes 32) (hop : opField w = o.byte)
    (hne : w ≠ o.matchBits) (s : State) : ∃ t, execute w s = .next t ∧ NoEffectBut 1 o.byte s t := by
  rw [← hop]
  refine execute_unmatched (fun o' hmatch => ?_) s
  obtain rfl : o = o' := byte_injective (hop.symm.trans (opField_of_match hmatch))
  rw [hmask, BitVec.and_allOnes] at hmatch
  exact hne hmatch

/-- Settles O16: `NOP` is the one word of its row, and it answers the state it has. -/
theorem nopLeavesEveryRegister : Obligations.NopLeavesEveryRegister :=
  ⟨encodedAs_build .nop, fun _ => rfl, fun _ s hop hne => execute_of_other_word (o := .nop) rfl hop hne s⟩

/-- Settles O17: both resets answer `resetCore`, and no register depends on the events still to come. -/
theorem softResetRestoresTheResetState : Obligations.SoftResetRestoresTheResetState :=
  ⟨encodedAs_build .softReset, fun s => ⟨resetCore s, rfl, rfl, statusWord_resetCore s, rfl, rfl, rfl,
    rgstateWord_resetCore s, step_pending s .reset⟩⟩

/-- With no error recorded, a record that a run can leave is all zero (R223, R220). -/
theorem clearErr_eq_self {s : State} (hs : RecordInv s) (herr : s.err = 0) : clearErr s = s := by
  obtain ⟨horigin, hovf, -⟩ := hs
  rw [herr] at horigin
  have hop : s.errOp = 0 := eq_of_beq horigin
  ext1 <;> simp [herr, hop, hovf herr]

/-- Once the record is cleared, `STATUS` shows `MATCH` alone (R34). -/
theorem statusWord_clearErr {s : State} (h : s.matchFlag = false) : statusWord (clearErr s) = 0 := by
  simp [statusWord, h]

/-- Settles O18: the command writes the record alone, which is zero already where no error is recorded; in the example
bit 4 of `STATUS`, which is `MATCH`, is clear. -/
theorem clrErrClearsOnlyTheRecord : Obligations.ClrErrClearsOnlyTheRecord := by
  refine ⟨encodedAs_build .clrErr, fun _ => rfl, fun s hs herr => congrArg _ (clearErr_eq_self hs herr),
    fun _ s hop hne => execute_of_other_word (o := .clrErr) rfl hop hne s, fun i s t h hclr hreset herr => ?_,
    fun s hstatus => ⟨clearErr s, rfl, statusWord_clearErr ?_⟩⟩
  · obtain ⟨hkept, -⟩ := (recordedErrorIsKept i s t h hclr hreset).1 herr
    exact hkept
  · rw [← statusWord_match, show statusWord s = 0x00001206 from hstatus]
    rfl

end Sys2Proof.Machine

/-! SUPPORT. The statements of 45_host_procedures.md: what a run of accesses keeps, the result and the record of ENCODE
(O55), the split and the result of DECODE (O56), and DECODE of ENCODE (O57). -/

namespace Sys2Proof.Machine

open Sys2Proof.Safety

/-! ### What a run of accesses keeps -/

/-- If the access issues a command, that command keeps `I`. -/
def AccessKeeps (base : Nat) (I : State → Prop) (ev : HostEvent) : Prop :=
  ∀ i, ev = cmdWrite base (encode i) → ∀ s t, I s → exec i s = .next t → I t

/-- A run whose commands and reads keep `I` keeps `I`. -/
theorem Runs.keeps {base : Nat} {α : Type} {m : HostProc α} {s t : State} {evs : List HostEvent} {a : α}
    {I : State → Prop} (h : Runs base m s evs a t) (hevs : ∀ ev ∈ evs, AccessKeeps base I ev)
    (hread : ∀ s v, I s → I (s.respond v)) (hs : I s) : I t := by
  induction h with
  | done => exact hs
  | issue he _ ih =>
    obtain ⟨hcmd, hrest⟩ := List.forall_mem_cons.mp hevs
    exact ih hrest (hcmd _ rfl _ _ hs he)
  | rd _ ih =>
    obtain ⟨-, hrest⟩ := List.forall_mem_cons.mp hevs
    exact ih hrest (hread _ _ hs)

theorem accessKeeps_regAccess (base : Nat) (I : State → Prop) (r : RegName) :
    AccessKeeps base I (regAccess base r) := nofun

theorem cmdWrite_encode_injective {base : Nat} {i j : Instr}
    (h : cmdWrite base (encode i) = cmdWrite base (encode j)) : i = j := by
  have hword : encode i = encode j := by simpa [cmdWrite] using h
  simpa using congrArg decode hword

/-- A write of the word of a command issues that command alone. -/
theorem accessKeeps_cmdWrite {base : Nat} {I : State → Prop} {i : Instr}
    (h : ∀ s t, I s → exec i s = .next t → I t) : AccessKeeps base I (cmdWrite base (encode i)) :=
  fun _ hj => cmdWrite_encode_injective hj ▸ h

theorem accessKeeps_issues {base : Nat} {I : State → Prop} {is : List Instr}
    (h : ∀ i ∈ is, ∀ s t, I s → exec i s = .next t → I t) : ∀ ev ∈ issues base is, AccessKeeps base I ev :=
  List.forall_mem_map.mpr fun i hi => accessKeeps_cmdWrite (h i hi)

theorem accessKeeps_issuesReading {base : Nat} {I : State → Prop} {is : List Instr}
    (h : ∀ i ∈ is, ∀ s t, I s → exec i s = .next t → I t) : ∀ ev ∈ issuesReading base is, AccessKeeps base I ev := by
  intro ev hev
  obtain ⟨i, hi, hev⟩ := List.mem_flatMap.mp hev
  obtain rfl | rfl := List.mem_pair.mp hev
  · exact accessKeeps_cmdWrite (h i hi)
  · exact accessKeeps_regAccess base I _

/-! ### ENCODE -/

/-- The words of ENCODE before the checksum (R192). -/
def encodeWords (b : List Byte) : List Word := (regroup 8 5 true (b.map BitVec.toNat)).1.map (BitVec.ofNat 5)

/-- The character of a word, as a code point (R160). -/
def wordChar (w : Word) : Nat := (charsetRom w).toNat

theorem hrpTooHigh_of_le {p : List Nat} (h : ∀ c ∈ p, c ≤ 127) : hrpTooHigh p = false :=
  List.any_eq_false.mpr fun c hc => by simpa using h c hc

/-- With a start that ENCODE accepts, PLI's encode is the start, the separator and the characters of the words. -/
theorem pliEncode_eq_ok {p : List Nat} (hp : p ≠ []) (hcodes : ∀ c ∈ p, c ≤ 127) (b : List Byte) :
    pliEncode p b =
      .ok (p ++ [0x31] ++ (encodeWords b ++ createChecksum p (encodeWords b)).map wordChar) := by
  rw [pliEncode, if_neg (by simpa using hp), hrpTooHigh_of_le hcodes]
  rfl

theorem length_encodeWords (b : List Byte) : (encodeWords b).length = (8 * b.length + 4) / 5 := by
  rw [encodeWords, List.length_map, length_regroup_pad (by decide) (toNat_lt_of_mem fun v _ => v.isLt),
    List.length_map]

theorem length_createChecksum (p : List Nat) (ws : List Word) : (createChecksum p ws).length = 6 := by
  simp [createChecksum]

theorem wordChar_mem (w : Word) : wordChar w ∈ charsetTable.map BitVec.toNat := by
  revert w
  decide

/-- The mode of ENCODE's stream, and the record ENCODE works with: no error, and the note `note` of R236. -/
def EncodeReady (note : Option Fault) (s : State) : Prop :=
  s.rgDir = .to5 ∧ s.rgPad = true ∧ s.err = 0 ∧ s.hostFault = note

/-- The commands ENCODE issues once its stream is open, with operands in their ranges. -/
inductive EncodeCmd : Instr → Prop
  | push (v : Byte) : EncodeCmd (.rgPush v)
  | flush : EncodeCmd .rgFlush
  | init : EncodeCmd .pmInit
  | hrpHi {c : Nat} (hc : c ≤ 127) : EncodeCmd (.pmHrpHi (BitVec.ofNat 8 c))
  | feed (w : Word) : EncodeCmd (.pmFeed (wordImm w))
  | hrpLo {c : Nat} (hc : c ≤ 127) : EncodeCmd (.pmHrpLo (BitVec.ofNat 8 c))
  | final : EncodeCmd .ckFinal
  | ckWord {imm : Byte} (h : imm.toNat ≤ 5) : EncodeCmd (.ckWord imm)
  | char (w : Word) : EncodeCmd (.csEnc (wordImm w))

/-- None of these commands changes the mode or raises an error (R194). -/
theorem EncodeCmd.keeps_ready {i : Instr} (hi : EncodeCmd i) {note : Option Fault} (s t : State)
    (hs : EncodeReady note s) (h : exec i s = .next t) : EncodeReady note t := by
  cases hi with
  | push v =>
    have ⟨hdir, _⟩ := hs
    cases h.symm.trans (exec_rgPush_ok (hdir ▸ v.isLt))
    exact hs
  | flush =>
    have ⟨_, hpad, _⟩ := hs
    cases h.symm.trans (exec_rgFlush_pad hpad)
    exact hs
  | init | final =>
    cases h
    exact hs
  | hrpHi hc =>
    cases h.symm.trans (exec_pmHrpHi_code hc s)
    exact hs
  | feed w =>
    cases h.symm.trans (exec_pmFeed_wordImm w s)
    exact hs
  | hrpLo hc =>
    cases h.symm.trans (exec_pmHrpLo_code hc s)
    exact hs
  | ckWord himm =>
    cases h.symm.trans (exec_ckWord_ok himm)
    exact hs
  | char w =>
    cases h.symm.trans (exec_csEnc_wordImm w s)
    exact hs

theorem sequenceFeeds_encodeCmd {p : List Nat} (hcodes : ∀ c ∈ p, c ≤ 127) (ws : List Word) :
    ∀ i ∈ sequenceFeeds p (ws.map wordImm), EncodeCmd i := by
  simp only [sequenceFeeds_words, List.forall_mem_append, List.forall_mem_map, List.forall_mem_singleton]
  exact ⟨⟨⟨⟨.init, fun c hc => .hrpHi (hcodes c hc)⟩, .feed 0⟩, fun c hc => .hrpLo (hcodes c hc)⟩,
    fun w _ => .feed w⟩

theorem streamCmds_encodeCmd (b : List Byte) : ∀ i ∈ streamCmds b, EncodeCmd i := by
  simp only [streamCmds, List.forall_mem_append, List.forall_mem_map, List.forall_mem_singleton]
  exact ⟨fun v _ => .push v, .flush⟩

theorem ckWords_encodeCmd :
    ∀ i ∈ [Instr.ckWord 0, .ckWord 1, .ckWord 2, .ckWord 3, .ckWord 4, .ckWord 5], EncodeCmd i := by
  simp only [List.forall_mem_cons, List.not_mem_nil, false_imp_iff, implies_true, and_true]
  refine ⟨.ckWord ?_, .ckWord ?_, .ckWord ?_, .ckWord ?_, .ckWord ?_, .ckWord ?_⟩ <;> decide

/-- The accesses of ENCODE after its stream was opened. -/
def encodeTail (base : Nat) (p : List Nat) (b : List Byte) : List HostEvent :=
  issuesReading base (streamCmds b) ++ issues base (sequenceFeeds p ((encodeWords b).map wordImm) ++ [.ckFinal]) ++
  issuesReading base [.ckWord 0, .ckWord 1, .ckWord 2, .ckWord 3, .ckWord 4, .ckWord 5] ++
  issuesReading base ((encodeWords b ++ createChecksum p (encodeWords b)).map fun w => .csEnc (wordImm w))

theorem encodeTail_keeps {p : List Nat} (hcodes : ∀ c ∈ p, c ≤ 127) (base : Nat) (b : List Byte)
    (note : Option Fault) : ∀ ev ∈ encodeTail base p b, AccessKeeps base (EncodeReady note) ev := by
  have hkeeps : ∀ is : List Instr, (∀ i ∈ is, EncodeCmd i) →
      ∀ i ∈ is, ∀ s t, EncodeReady note s → exec i s = .next t → EncodeReady note t :=
    fun is h i hi => (h i hi).keeps_ready
  have hfeeds := sequenceFeeds_encodeCmd hcodes (encodeWords b)
  simp only [encodeTail, List.forall_mem_append]
  exact ⟨⟨⟨accessKeeps_issuesReading (hkeeps _ (streamCmds_encodeCmd b)),
    accessKeeps_issues (hkeeps _ (List.forall_mem_append.mpr ⟨hfeeds, List.forall_mem_singleton.mpr .final⟩))⟩,
    accessKeeps_issuesReading (hkeeps _ ckWords_encodeCmd)⟩,
    accessKeeps_issuesReading (hkeeps _ (List.forall_mem_map.mpr fun w _ => .char w))⟩

/-- With a start that ENCODE accepts, its accesses clear the record, open the stream, and then are `encodeTail`. -/
theorem encodeAccesses_eq {p : List Nat} (hp : p ≠ []) (hcodes : ∀ c ∈ p, c ≤ 127) (base : Nat) (b : List Byte) :
    encodeAccesses base p b =
      cmdWrite base (encode .clrErr) :: cmdWrite base (encode (.rgInit .to5 true)) :: encodeTail base p b := by
  have hcheck : ¬ (p.isEmpty || hrpTooHigh p) = true := by simp [hp, hrpTooHigh_of_le hcodes]
  rw [encodeTail, sequenceFeeds_words, encodeAccesses, if_neg hcheck]
  rfl

/-- A run whose first access issues a command executes it and goes on from there. -/
theorem Runs.of_cmdWrite {base : Nat} {α : Type} {m : HostProc α} {i : Instr} {s t u : State} {evs : List HostEvent}
    {a : α} (h : Runs base m s (cmdWrite base (encode i) :: evs) a t) (hexec : exec i s = .next u) :
    ∃ rest, Runs base rest u evs a t := by
  generalize hall : cmdWrite base (encode i) :: evs = all at h
  cases h with
  | done => cases hall
  | issue he hr =>
    obtain ⟨hev, rfl⟩ := List.cons.inj hall
    obtain rfl := cmdWrite_encode_injective hev
    cases he.symm.trans hexec
    exact ⟨_, hr⟩
  | rd hr => exact absurd (List.cons.inj hall).1 nofun

/-- ENCODE ends with no error recorded and the note of R236 as it was (R194). -/
theorem encodeProc_record {p : List Nat} (hp : p ≠ []) (hcodes : ∀ c ∈ p, c ≤ 127) {base : Nat} {b : List Byte}
    {s t : State} {r : Except EncodingError (List Nat)}
    (h : Runs base (encodeProc p b) s (encodeAccesses base p b) r t) : t.err = 0 ∧ t.hostFault = s.hostFault := by
  rw [encodeAccesses_eq hp hcodes] at h
  obtain ⟨_, h⟩ := h.of_cmdWrite (u := clearErr s) rfl
  obtain ⟨_, h⟩ := h.of_cmdWrite (u := ((clearErr s).setMode .to5 true).setStream 0 0) rfl
  have hready : EncodeReady s.hostFault (((clearErr s).setMode .to5 true).setStream 0 0) := ⟨rfl, rfl, rfl, rfl⟩
  obtain ⟨-, -, herr, hnote⟩ := h.keeps (encodeTail_keeps hcodes base b s.hostFault) (fun _ _ => id) hready
  exact ⟨herr, hnote⟩

/-- Settles O55: the run of ENCODE returns PLI's encode and makes the accesses `encodeAccesses`, whose commands keep the
record clear. -/
theorem encodeComputesPliEncode : Obligations.EncodeComputesPliEncode := by
  intro p b s
  obtain ⟨t, hrun⟩ := encodeProc_runs s.b32Base p b s
  have hhost : hostEncode p b s = .next (t, pliEncode p b) := hrun.runHost_eq
  refine ⟨t, hhost, fun hp => ?_, fun hp hhigh => ?_, fun hp hcodes => ?_⟩
  · subst hp
    cases hhost
    exact ⟨rfl, rfl⟩
  · have hcheck : hrpTooHigh p = true := List.any_eq_true.mpr (by simpa using hhigh)
    have hempty : ¬ p.isEmpty = true := by simpa using hp
    have herror : hostEncode p b s = .next (s, .error .hrpCharacter) := by
      rw [hostEncode, encodeProc, if_neg hempty, if_pos hcheck, runHost_done]
    obtain ⟨ht, hresult⟩ := Prod.mk.inj (Host.Outcome.next.inj (hhost.symm.trans herror))
    exact ⟨hresult, ht⟩
  · obtain ⟨herr, hnote⟩ := encodeProc_record hp hcodes hrun
    refine ⟨herr, hnote, _, pliEncode_eq_ok hp hcodes b, ?_, ?_⟩
    · rw [List.length_map, List.length_append, length_encodeWords, length_createChecksum]
    · exact List.forall_mem_map.mpr fun w _ => wordChar_mem w

/-! ### DECODE: the split -/

theorem splitAtLast_eq_none_iff (str : List Nat) : splitAtLast str = none ↔ 0x31 ∉ str := by
  induction str with
  | nil => simp [splitAtLast]
  | cons c cs ih =>
    rw [splitAtLast, List.mem_cons, not_or, ← ih]
    cases splitAtLast cs with
    | some parts => simp
    | none => simp [eq_comm]

/-- The split is at a separator with none after it (R195). -/
theorem splitAtLast_of_not_mem {d : List Nat} (h : 0x31 ∉ d) (p : List Nat) :
    splitAtLast (p ++ [0x31] ++ d) = some (p, d) := by
  induction p with
  | nil => simp [splitAtLast, (splitAtLast_eq_none_iff d).mpr h]
  | cons c p ih => simp only [List.cons_append, splitAtLast, ih]

theorem eq_of_splitAtLast {str p d : List Nat} (h : splitAtLast str = some (p, d)) :
    str = p ++ [0x31] ++ d ∧ 0x31 ∉ d := by
  induction str generalizing p with
  | nil => cases h
  | cons c cs ih =>
    rw [splitAtLast] at h
    cases hcs : splitAtLast cs with
    | some parts =>
      rw [hcs] at h
      cases h
      obtain ⟨rfl, hd⟩ := ih hcs
      exact ⟨rfl, hd⟩
    | none =>
      rw [hcs] at h
      by_cases hc : c = Config.sepChar
      · rw [if_pos hc] at h
        cases h
        exact ⟨congrArg (List.cons · _) hc, (splitAtLast_eq_none_iff _).mp hcs⟩
      · rw [if_neg hc] at h
        cases h

/-! ### DECODE: the parts -/

/-- If every character is one of the charset, step 3 of DECODE keeps a clear record (R197). -/
theorem charAccesses_keep {d : List Nat} {ws : List Word} (h : d.mapM charIndex = some ws) (base : Nat) :
    ∀ ev ∈ charAccesses base d, AccessKeeps base (fun s => s.err = 0) ev := by
  induction d generalizing ws with
  | nil => simp [charAccesses]
  | cons c cs ih =>
    obtain ⟨w, hw, ws', hws, -⟩ : ∃ w, charIndex c = some w ∧ ∃ ws', cs.mapM charIndex = some ws' ∧ w :: ws' = ws := by
      simpa [Option.bind_eq_some_iff] using h
    have hcode : ¬ 255 < c := fun hc => by simp [charIndex_eq_none hc] at hw
    rw [charAccesses, if_neg hcode, hw]
    refine List.forall_mem_append.mpr ⟨accessKeeps_issuesReading ?_, ih hws⟩
    refine List.forall_mem_singleton.mpr fun s t hs hexec => ?_
    have hword : invRom (BitVec.ofNat 8 c) = wordImm w := by
      rw [invRom_eq_charIndex, BitVec.toNat_ofNat, Nat.mod_eq_of_lt (by omega), hw, Option.elim_some]
    cases hexec.symm.trans (exec_csDec_ok (hword ▸ ne_invalidMark_of_le (wordImm_le w)))
    exact hs

/-- Where the checksum verifies, `CK_VERIFY` raises no error (R140). -/
theorem verifyProc_verified {p : List Nat} (hcodes : ∀ c ∈ p, c ≤ 127) {ws : List Word}
    (h : verifyChecksum p ws = true) (s : State) :
    ∃ t, runHost (verifyProc p (ws.map wordImm)) s = .next (t, true) ∧ t.err = s.err := by
  have hacc : polymod (expandHrp p ++ ws) = checksumConst := eq_of_beq h
  obtain ⟨u, hverify, hmatch, herr⟩ : ∃ u, exec .ckVerify (s.setAcc checksumConst) = .next u ∧
      u.matchFlag = true ∧ u.err = s.err := ⟨_, exec_ckVerify_match rfl, rfl, rfl⟩
  have hfeeds : runCmds (sequenceFeeds p (ws.map wordImm) ++ [.ckVerify]) s = .next u := by
    rw [runCmds_append (runCmds_sequenceFeeds hcodes ws s), hacc]
    simp only [runCmds, hverify]
  refine ⟨u.respond (readReg .status u), ?_, herr⟩
  rw [verifyProc, runHost_andThen _ (Runs.issueAll (base := s.b32Base) hfeeds).runHost_eq, runHost_rd, runHost_done,
    readReg, statusWord_match, hmatch]

/-- `ERR` is the low four bits of `STATUS` (R34). -/
theorem statusWord_err (s : State) : (statusWord s).extractLsb' 0 4 = s.err := by
  rw [statusWord, BitVec.extractLsb'_append_eq_right]

/-- DECODE looks at the first output place alone (R200). -/
theorem oneOutput_eq_take (r : Reg) : oneOutput r = (bothOutputs r).take 1 := by
  rw [oneOutput, bothOutputs, List.take_take, Nat.min_comm, ← List.take_take]
  rfl

/-- The emit loop takes no more bits than are pending. -/
theorem length_regroupEmit_le {tw acc fuel cnt : Nat} : tw * (regroupEmit tw acc fuel cnt).1.length ≤ cnt := by
  have h := congrArg List.length (regroupEmit_bits (tw := tw) (acc := acc) (fuel := fuel) (cnt := cnt))
  rw [List.length_append, length_bitstream, length_bitsMsb, length_bitsMsb] at h
  omega

/-- A push 5 -> 8 gives at most one output, so the place DECODE looks at holds all of regroup's (R200). -/
theorem StreamHolds.oneOutput_push {pad : Bool} {acc cnt : Nat} {s : State} {v : Byte}
    (h : StreamHolds .to8 pad acc cnt s) (hv : v.toNat < 2 ^ 5) :
    (oneOutput (pushValue v s).result).map BitVec.toNat =
      (regroupEmit 8 (acc * 2 ^ 5 + v.toNat) (cnt + 5) (cnt + 5)).1 := by
  obtain ⟨-, hout, -⟩ := h.push hv
  have hcnt : cnt < 8 := h.cnt_lt
  have hbits : 8 * (regroupEmit 8 (acc * 2 ^ 5 + v.toNat) (cnt + 5) (cnt + 5)).1.length ≤ cnt + 5 :=
    length_regroupEmit_le
  rw [oneOutput_eq_take, List.map_take, hout]
  exact List.take_of_length_le (by simp only [toBits, fromBits]; omega)

/-- The pushes of step 6 give the host regroup's outputs and record nothing (R200). -/
theorem payloadPushes_run (base : Nat) {pad : Bool} (ws : List Word) {acc cnt : Nat} {s : State}
    (h : StreamHolds .to8 pad acc cnt s) :
    let out := regroupLoop 5 8 (ws.map BitVec.toNat) acc cnt
    ∃ rs evs t, Runs base (issueReading ((ws.map wordImm).map .rgPush)) s evs rs t ∧
      (rs.flatMap oneOutput).map BitVec.toNat = out.1 ∧ StreamHolds .to8 pad out.2.1 out.2.2 t ∧ KeepsRecord s t := by
  induction ws generalizing acc cnt s with
  | nil => exact ⟨[], [], s, .done [] s, rfl, h, rfl, rfl, rfl, rfl⟩
  | cons w ws ih =>
    have hfit : (wordImm w).toNat < 2 ^ 5 := Nat.lt_succ_of_le (wordImm_le w)
    obtain ⟨hpush, -, hnext⟩ := h.push hfit
    have hout := h.oneOutput_push hfit
    rw [toNat_wordImm] at hout hnext
    obtain ⟨rs, evs, t, hrun, houts, ht, hkept⟩ := ih (hnext.respond (pushValue (wordImm w) s).result)
    have hpushKept : KeepsRecord s ((pushValue (wordImm w) s).respond (pushValue (wordImm w) s).result) :=
      ⟨rfl, rfl, rfl, rfl⟩
    refine ⟨_, _, t, hrun.issueReading_cons hpush, ?_, ht, hpushKept.trans hkept⟩
    rw [List.flatMap_cons, List.map_append, hout, houts]
    rfl

theorem map_ofNat_toNat {n : Nat} (vs : List (BitVec n)) : (vs.map BitVec.toNat).map (BitVec.ofNat n) = vs := by
  simp [Function.comp_def]

/-- Step 6 of PLI's decode (R200): the payload regrouped, or its padding is not zero. -/
def decodedPayload (ws : List Word) : Except DecodeError (List Byte) :=
  let out := regroup 5 8 false (ws.map BitVec.toNat)
  if out.2 then .error .nonzeroPadding else .ok (out.1.map (BitVec.ofNat 8))

/-- From a clear record step 6 of DECODE gives that of PLI's decode (R200). -/
theorem decodePayload_run (ws : List Word) {s : State} (herr : s.err = 0) :
    ∃ t, runHost (decodePayload (ws.map wordImm)) s = .next (t, decodedPayload ws) := by
  obtain ⟨s1, hinit, hopen, hkept1⟩ := exec_rgInit_opens .to8 false s
  obtain ⟨rs, evs, s2, hpushes, houts, hs2, hkept2⟩ := payloadPushes_run s.b32Base ws hopen
  obtain ⟨s3, hflush, -, hclean, hbad⟩ := hs2.flush_check
  have hkept := hkept1.trans hkept2
  refine ⟨s3.respond (statusWord s3), ?_⟩
  rw [decodePayload, runHost_issue _ (decode_encode _) hinit, runHost_andThen _ hpushes.runHost_eq,
    runHost_issue _ (decode_encode _) hflush, runHost_rd, readReg, statusWord_err, decodedPayload]
  cases hpad : (regroup 5 8 false (ws.map BitVec.toNat)).2 with
  | true =>
    obtain ⟨hrecorded, -⟩ := (hkept.records (hbad hpad)).1 herr
    rw [hrecorded]
    rfl
  | false =>
    have hbytes : (rs.flatMap oneOutput).map BitVec.toNat = (regroup 5 8 false (ws.map BitVec.toNat)).1 := houts
    rw [(hkept.trans (hclean hpad)).err_eq, herr, ← hbytes, map_ofNat_toNat]
    rfl

/-- Where the checksum verifies, PLI's decode comes to its step 6. -/
theorem pliDecode_of_verified {str p d : List Nat} {ws : List Word} (hsplit : splitAtLast str = some (p, d))
    (hlen : ¬ d.length < Config.ckLen) (hd : d.mapM charIndex = some ws) (hcodes : ∀ c ∈ p, c ≤ 127)
    (hverified : verifyChecksum p ws = true) :
    pliDecode str = (decodedPayload (ws.take (ws.length - Config.ckLen))).map fun bytes => (p, bytes) := by
  simp only [pliDecode, decodedPayload, hsplit, hlen, hd, hrpTooHigh_of_le hcodes, hverified, Bool.not_true,
    Bool.false_eq_true, if_false]
  split <;> rfl

/-- After the split DECODE gives PLI's decode, whichever check fails first (R201). -/
theorem decodeParts_run {str p d : List Nat} (hsplit : splitAtLast str = some (p, d)) (s : State) :
    ∃ t, runHost (decodeParts p d) s = .next (t, pliDecode str) := by
  by_cases hlen : d.length < Config.ckLen
  · simp only [decodeParts, pliDecode, hsplit, hlen, if_true]
    exact ⟨s, rfl⟩
  obtain ⟨s1, hchars⟩ := decodeChars_runs s.b32Base d (clearErr s)
  have hstep := hchars.runHost_eq
  rw [decodeParts, if_neg hlen, runHost_issue _ (decode_encode _) rfl]
  cases hd : d.mapM charIndex with
  | none =>
    have hinvalid : decodedChars d = .error .invalidCharacter := by rw [decodedChars, hd, Option.elim_none]
    rw [runHost_andThen _ (hinvalid ▸ hstep)]
    simp only [pliDecode, hsplit, hlen, hd, if_false]
    exact ⟨s1, rfl⟩
  | some combined =>
    have hwords : decodedChars d = .ok (combined.map wordImm) := by rw [decodedChars, hd, Option.elim_some]
    rw [runHost_andThen _ (hwords ▸ hstep)]
    by_cases hhigh : hrpTooHigh p
    · simp only [pliDecode, hsplit, hlen, hd, hhigh, if_false, if_true]
      exact ⟨s1, rfl⟩
    have hcodes := le_of_hrpTooHigh_eq_false (Bool.eq_false_iff.mpr hhigh)
    by_cases hverified : verifyChecksum p combined
    · have hclear : s1.err = 0 := hchars.keeps (charAccesses_keep hd s.b32Base) (fun _ _ => id) rfl
      obtain ⟨s2, hverify, hkept⟩ := verifyProc_verified hcodes hverified s1
      obtain ⟨t, hpayload⟩ := decodePayload_run (combined.take (combined.length - Config.ckLen)) (hkept.trans hclear)
      rw [pliDecode_of_verified hsplit hlen hd hcodes hverified]
      refine ⟨t, ?_⟩
      simp only [hhigh, Bool.false_eq_true, if_false, runHost_andThen _ hverify, Bool.not_true, List.length_map,
        ← List.map_take, runHost_andThen _ hpayload, runHost_done]
    · obtain ⟨s2, hverify⟩ := verifyProc_runs s.b32Base hcodes combined s1
      rw [Bool.eq_false_iff.mpr hverified] at hverify
      refine ⟨s2, ?_⟩
      simp only [pliDecode, hsplit, hlen, hd, hhigh, hverified, Bool.false_eq_true, if_false,
        runHost_andThen _ hverify.runHost_eq, Bool.not_false, if_true, runHost_done]

theorem decodeProc_run (str : List Nat) (s : State) :
    ∃ t, runHost (decodeProc str) s = .next (t, pliDecode str) := by
  cases hsplit : splitAtLast str with
  | none =>
    simp only [decodeProc, pliDecode, hsplit]
    exact ⟨s, rfl⟩
  | some parts =>
    simp only [decodeProc, hsplit]
    exact decodeParts_run hsplit s

/-- Settles O56: each part of DECODE gives PLI's answer, the last because the checks before it have left the record
clear; the split by induction on the string. -/
theorem decodeComputesPliDecode : Obligations.DecodeComputesPliDecode := by
  refine ⟨decodeProc_run, fun str p d => ⟨eq_of_splitAtLast, ?_⟩, splitAtLast_eq_none_iff⟩
  rintro ⟨rfl, hd⟩
  exact splitAtLast_of_not_mem hd p

/-! ### DECODE of ENCODE -/

theorem charIndex_wordChar (w : Word) : charIndex (wordChar w) = some w := by
  revert w
  decide

theorem mapM_charIndex_wordChar (ws : List Word) : (ws.map wordChar).mapM charIndex = some ws := by
  induction ws with
  | nil => rfl
  | cons w ws ih => simp [charIndex_wordChar, ih]

/-- The separator is not in the charset (R162). -/
theorem wordChar_ne_sep (w : Word) : wordChar w ≠ 0x31 := by
  revert w
  decide

/-- The words of ENCODE as numbers are regroup's. -/
theorem toNat_encodeWords (b : List Byte) :
    (encodeWords b).map BitVec.toNat = (regroup 8 5 true (b.map BitVec.toNat)).1 := by
  rw [encodeWords, List.map_map]
  refine (List.map_congr_left fun v hv => ?_).trans (List.map_id _)
  exact Nat.mod_eq_of_lt (regroup_lt v hv)

theorem regroup_unpadded (fw tw : Nat) (data : List Nat) : regroup fw tw false data =
    let out := regroupLoop fw tw data 0 0
    (out.1, decide (fw ≤ out.2.2) || decide (out.2.1 % 2 ^ out.2.2 ≠ 0)) := rfl

/-- Regrouping ENCODE's words back gives the bytes, and the padding is zero (R111). -/
theorem decodedPayload_encodeWords (b : List Byte) : decodedPayload (encodeWords b) = .ok b := by
  obtain ⟨hback, -, hlt, hzero⟩ := regroupLoop_regroup_pad (tw := 5) (by decide) (by decide)
    (toNat_lt_of_mem fun v (_ : v ∈ b) => v.isLt)
  have hclean : (regroup 5 8 false ((encodeWords b).map BitVec.toNat)).2 = false := by
    rw [toNat_encodeWords, regroup_unpadded]
    simp [hlt, hzero]
  rw [decodedPayload, hclean, toNat_encodeWords, regroup_unpadded, hback, map_ofNat_toNat]
  rfl

/-- PLI's decode of PLI's encode (R205). -/
theorem pliDecode_encoded {p : List Nat} (hcodes : ∀ c ∈ p, c ≤ 127) (b : List Byte) :
    pliDecode (p ++ [0x31] ++ (encodeWords b ++ createChecksum p (encodeWords b)).map wordChar) = .ok (p, b) := by
  obtain ⟨hverified, -⟩ := appendedChecksumVerifies
  have hsep : 0x31 ∉ (encodeWords b ++ createChecksum p (encodeWords b)).map wordChar := fun h => by
    obtain ⟨w, -, hw⟩ := List.mem_map.mp h
    exact wordChar_ne_sep w hw
  have hck := length_createChecksum p (encodeWords b)
  rw [pliDecode_of_verified (splitAtLast_of_not_mem hsep p) (by simp [hck]) (mapM_charIndex_wordChar _) hcodes
    (hverified p _), List.length_append, hck, Nat.add_sub_cancel, List.take_left, decodedPayload_encodeWords]
  rfl

/-- Settles O57: both procedures give PLI's answers, and PLI's decode takes encode's string apart at its separator, where
the appended checksum verifies and the words regroup to the bytes. -/
theorem decodeOfEncodeReturnsTheInput : Obligations.DecodeOfEncodeReturnsTheInput := by
  intro p b s hp hcodes
  obtain ⟨t, hencode, -⟩ := encodeComputesPliEncode p b s
  obtain ⟨u, hdecode⟩ := decodeProc_run _ t
  rw [pliEncode_eq_ok hp hcodes] at hencode
  rw [pliDecode_encoded hcodes] at hdecode
  exact ⟨t, _, u, hencode, hdecode⟩

end Sys2Proof.Machine

/-! SUPPORT. The statements of 60_exceptions.md: an error does not stop the core (O44), the note of R236 stays (O46), a
command raises only its own errors (O47), the idle step (O9) and the rule of R223 (O42). -/

namespace Sys2Proof.Machine

open Sys2Proof.Safety

/-! ### The error record does not steer a command -/

/-- Both answers are next states, and these differ in nothing but the error record and the note of R236. -/
def AnswersAlike (x x' : Host.Outcome State Fault Refusal) : Prop :=
  ∃ t t', x = .next t ∧ x' = .next t' ∧ SameButRecord t t'

namespace AnswersAlike

variable {s s' : State}

theorem next (h : SameButRecord s s') : AnswersAlike (.next s) (.next s') := ⟨s, s', rfl, rfl, h⟩

/-- An error raised on both sides writes the record and the note alone, whatever the record held (R223, R236). -/
theorem raise (h : SameButRecord s s') (e : ErrCode) (op : Byte) :
    AnswersAlike (.next (raiseErr e op s)) (.next (raiseErr e op s')) := by
  refine next ?_
  rw [SameButRecord] at h ⊢
  rw [raiseErr_eq, raiseErr_eq, h]

theorem ite {c : Prop} [Decidable c] {x x' y y' : Host.Outcome State Fault Refusal} (hx : AnswersAlike x x')
    (hy : AnswersAlike y y') : AnswersAlike (if c then x else y) (if c then x' else y') := by
  split
  · exact hx
  · exact hy

end AnswersAlike

/-- Settles O44: no operand check, no condition and no value written reads the error record. -/
theorem errorsDoNotStopTheCore : Obligations.ErrorsDoNotStopTheCore := by
  intro i s err errOp ovf note
  have same (u : State) : SameButRecord u { u with err := err, errOp := errOp, ovf := ovf, hostFault := note } := rfl
  change AnswersAlike (exec i s) (exec i { s with err := err, errOp := errOp, ovf := ovf, hostFault := note })
  cases i with
  | nop | softReset | clrErr | rgInit | pmInit | ckFinal => exact .next rfl
  | rgPush | pmFeed | pmHrpHi | pmHrpLo | ckWord | csEnc =>
    simp only [exec, execRgPush, execPmFeed, execPmHrpHi, execPmHrpLo, execCkWord, execCsEnc]
    split
    · exact .raise (same s) _ _
    · exact .next rfl
  | rgFlush => exact .ite (.next rfl) (.ite (.raise (same _) _ _) (.next rfl))
  | ckVerify => exact .ite (.next rfl) (.raise (same _) _ _)
  | csDec => exact .ite (.raise (same _) _ _) (.next rfl)

/-! ### The note of R236 -/

/-- Settles O9: with no event pending there is nothing to serve. -/
theorem idleCoreHoldsItsState : Obligations.IdleCoreHoldsItsState := by
  intro s h
  simp only [step, serveNext, h]

section Noted

variable {s t : State} {f : Fault} (hs : s.hostFault = some f)
include hs

theorem raiseErr_keeps_note (e : ErrCode) (op : Byte) : (raiseErr e op s).hostFault = some f := by
  rw [raiseErr_hostFault, hs, Option.some_or]

theorem execute_keeps_note {w : Reg} (h : execute w s = .next t) : t.hostFault = some f := by
  obtain ⟨i, -, hexec⟩ | ⟨r, -, rfl⟩ := execute_cases h
  · obtain ⟨u, hu, rfl | ⟨e, -, rfl⟩⟩ := exec_cases hexec
    · exact hu.keeps_hostFault.trans hs
    · exact raiseErr_keeps_note (hu.keeps_hostFault.trans hs) e _
  · exact raiseErr_keeps_note hs .illegalCmd _

theorem serve_keeps_note {ev : HostEvent} (h : serve ev s = .next t) : t.hostFault = some f := by
  obtain rfl | rfl | ⟨v, rfl⟩ | ⟨w, hw⟩ := serve_cases h
  · exact hs
  · exact hs
  · exact hs
  · exact execute_keeps_note hs hw

end Noted

/-- Settles O46: no event served clears the note, a reset because it loads registers only, an error because a noted fault
goes before its own. -/
theorem hostFaultIsNeverCleared : Obligations.HostFaultIsNeverCleared := by
  intro s t f h hs
  cases hp : s.pending with
  | nil =>
    cases h.symm.trans (idleCoreHoldsItsState s hp)
    exact hs
  | cons ev rest =>
    rw [step_cons hp] at h
    exact serve_keeps_note (s := s.setPending rest) hs h

/-! ### Which errors a command raises -/

/-- Apart from errors a command keeps `ERR` and `OVF`, or clears both. -/
theorem Writes.keeps_or_clears_record {s u : State} {o : Opcode} (h : Writes s o u) :
    (u.err = s.err ∧ u.ovf = s.ovf) ∨ (u.err = 0 ∧ u.ovf = false) := by
  cases h with
  | reset | clear => exact .inr ⟨rfl, rfl⟩
  | nothing | mode | push | flush | acc | checksum | verdict | result => exact .inl ⟨rfl, rfl⟩

theorem Writes.err_eq_zero {s u : State} {o : Opcode} (h : Writes s o u) (hs : s.err = 0) : u.err = 0 := by
  obtain ⟨herr, -⟩ | ⟨herr, -⟩ := h.keeps_or_clears_record
  · exact herr.trans hs
  · exact herr

theorem Writes.ovf_of_ovf {s u : State} {o : Opcode} (h : Writes s o u) (hu : u.ovf = true) : s.ovf = true := by
  obtain ⟨-, hovf⟩ | ⟨-, hovf⟩ := h.keeps_or_clears_record
  · exact hovf ▸ hu
  · exact absurd (hovf.symm.trans hu) Bool.false_ne_true

/-- Settles O47: what a command writes leaves a clear record clear and sets no `OVF`, and the one error it may raise on
that is listed for it. -/
theorem commandsRaiseOnlyTheirErrors : Obligations.CommandsRaiseOnlyTheirErrors := by
  intro i s t h
  obtain ⟨u, hu, rfl | ⟨e, he, rfl⟩⟩ := exec_cases h
  · exact ⟨fun hclear => .inl (hu.err_eq_zero hclear), fun _ => hu.ovf_of_ovf⟩
  · refine ⟨fun hclear => ?_, fun hnone => absurd (hnone ▸ he) List.not_mem_nil⟩
    obtain ⟨herr, hop, -⟩ := (raiseErr_records e i.opcode.byte u).1 (hu.err_eq_zero hclear)
    exact .inr ⟨herr ▸ he, hop⟩

/-- Settles O42: R223 is `raiseErr_records`, and nothing beside the record and the note is written. -/
theorem raiseKeepsTheFirstError : Obligations.RaiseKeepsTheFirstError := raiseErr_noEffectBut

end Sys2Proof.Machine
